-- ==== Sys2Proof/Word.lean ====
section
/-! DEFINITION. The words of the HVSP engine: the widths that spec/00_scope.md R11 fixes for its bytes, frames and
signatures, and the names (lines, directions, actions, phases, fuse
selectors, timing parameters) that operations and configuration share. -/

namespace Sys2Proof

/-- The width of a frame and of the accumulator (00_scope.md R11): the value of `FRAME_BITS`. -/
abbrev frameBits : Nat := 11

/-- The width of a data or instruction byte (00_scope.md R11): the value of `DATA_BITS`. -/
abbrev dataBits : Nat := 8

/-- The width of a signature (00_scope.md R11): the value of `SIG_BITS`. -/
abbrev sigBits : Nat := 16

/-- A data or instruction byte (00_scope.md R11). -/
abbrev Byte := BitVec dataBits

/-- A frame, and the result accumulator of the same width (00_scope.md R11). -/
abbrev Frame := BitVec frameBits

/-- A 16-bit signature (00_scope.md R11). -/
abbrev Signature := BitVec sigBits

/-- The index of a row of the descriptor table (10_state.md R30); a row's index is below `N_DESC`. -/
abbrev DescIdx := Nat

/-- The index of a frame bit, 0 to 10 (10_state.md R26). -/
abbrev BitIdx := Fin frameBits

/-- A frame pair `d:i` (30_encoding.md R81): the data byte goes on SDI, the instruction byte on SII. -/
structure FramePair where
  sdi : Byte
  sii : Byte
  deriving DecidableEq, Repr

/-- The output latches that `PIN` writes (10_state.md R21, 30_encoding.md R97). -/
inductive Role where
  | rst | vcc | sci | sii | sdi | sdoOut
  deriving DecidableEq, Repr

/-- The direction of the data-out line (10_state.md R22), seen from the engine. -/
inductive Dir where
  | input | output
  deriving DecidableEq, Repr

/-- The action a host asks a session for (10_state.md R33). -/
inductive Action where
  | readOnly | erase | writeDefaults
  deriving DecidableEq, Repr

/-- The family tag of a descriptor: two or three fuse bytes (10_state.md R41, 90_conflicts.md C10). -/
inductive Family where
  | fam2 | fam3
  deriving DecidableEq, Repr

/-- The three fuse selectors LFUSE, HFUSE and EFUSE (20_memory.md R61). -/
inductive FuseSel where
  | low | high | ext
  deriving DecidableEq, Repr

/-- The named timing parameters (00_scope.md R10). -/
inductive TimeParam where
  | readyTimeout | vccSettle | hvSettle | pmStable | edgeMin | pollMin
  deriving DecidableEq, Repr

/-- The named widths (00_scope.md R10). -/
inductive WidthParam where
  | frameBits | padLead | padTrail | dataBits | sigBits
  deriving DecidableEq, Repr

/-- The outcome of the last readiness wait (10_state.md R28). -/
inductive WaitResult where
  | none | ready | expired
  deriving DecidableEq, Repr

/-- The session phases (10_state.md R32). -/
inductive Phase where
  | idle | pEnter | pIdent | pUnknown | pRead | pErase | pWrite | pVerify | pExit
  deriving DecidableEq, Repr

/-- The nine sequences of `CMD` (30_encoding.md R86, R90). -/
inductive CmdOp where
  | rdsb | rdL | rdH | rdE | rdLk | wrL | wrH | wrE | erase
  deriving DecidableEq, Repr

/-- The fields of a Device Descriptor (10_state.md R41). -/
inductive DescField where
  | signature | family | lfuse | hfuse | efuse
  deriving DecidableEq, Repr

/-- What one event of the trace shows (10_state.md R39): a latch write, a direction write or a sample. -/
inductive EventKind where
  | level (role : Role) (bit : Bool)
  | dir (d : Dir)
  | sample (bit : Bool)
  deriving DecidableEq, Repr

/-- An event of the trace, `(time, line, value)` (10_state.md R39). -/
structure Event where
  time : Nat
  kind : EventKind
  deriving DecidableEq, Repr

end Sys2Proof
end

