-- ==== Sys2Proof/Config.lean ====
section
/-! DEFINITION. The read-only configuration `C` (10_state.md R20, R40; 00_scope.md R10), its default values, and the
free values of the model: what the target answers, how long a primitive takes, and the values that the spec leaves
unstated in a `SET`. -/

namespace Sys2Proof

/-- `PINMAP`: the physical identifier of each of the six logical roles (10_state.md R21). -/
structure PinMap where
  rst : Nat
  vcc : Nat
  sci : Nat
  sii : Nat
  sdi : Nat
  sdo : Nat
  deriving DecidableEq, Repr

/-- A Device Descriptor (10_state.md R41). -/
structure Descriptor where
  signature : Signature
  family : Family
  lfuseDef : Byte
  hfuseDef : Byte
  efuseDef : Option Byte
  deriving DecidableEq, Repr

/-- The SDI half of an entry of `CMD`: a command byte, `PAD_DATA`, or the operand `v` or `idx`
(30_encoding.md R83, R88). -/
inductive SdiField where
  | byte (b : Byte)
  | pad
  | operand
  deriving DecidableEq, Repr

/-- One entry of `CMD`: the frame pair of one (operation, frame number) (30_encoding.md R88). -/
structure CmdEntry where
  sdi : SdiField
  sii : Byte
  deriving DecidableEq, Repr

/-- `CMD`: the frame pairs of every operation that sends frames (30_encoding.md R88). -/
structure CmdTable where
  rdsb : List CmdEntry
  rdL : List CmdEntry
  rdH : List CmdEntry
  rdE : List CmdEntry
  rdLk : List CmdEntry
  wrL : List CmdEntry
  wrH : List CmdEntry
  wrE : List CmdEntry
  erase : List CmdEntry
  deriving DecidableEq, Repr

/-- `FUSE_ADDR`: the 16-bit constant of each fuse selector (30_encoding.md R92). -/
structure FuseAddr where
  low : BitVec 16
  high : BitVec 16
  ext : BitVec 16
  deriving DecidableEq, Repr

/-- The timing parameters in nanoseconds (00_scope.md R10). `edgeMin` is OPEN there: `none` is "not set". -/
structure Timing where
  readyTimeout : Nat
  vccSettle : Nat
  hvSettle : Nat
  pmStable : Nat
  edgeMin : Option Nat
  pollMin : Nat
  deriving DecidableEq, Repr

/-- The widths of 00_scope.md R10. `FRAME_BITS`, `DATA_BITS` and `SIG_BITS` have the values R11 fixes in every valid
configuration, and the pads fill the frame (Machine/Setup.lean; log 31). -/
structure Widths where
  frameBits : Nat
  padLead : Nat
  padTrail : Nat
  dataBits : Nat
  sigBits : Nat
  deriving DecidableEq, Repr

/-- The width of a name. -/
def Widths.get (w : Widths) : WidthParam → Nat
  | .frameBits => w.frameBits
  | .padLead => w.padLead
  | .padTrail => w.padTrail
  | .dataBits => w.dataBits
  | .sigBits => w.sigBits

/-- `SIG_INDICES`: the indices of the two signature bytes, in the order in which they are read (00_scope.md R10). Any
two bytes: DESIGN CHOICE (log 38). -/
structure SigIndices where
  first : Byte
  second : Byte
  deriving DecidableEq, Repr

/-- The configuration `C = (PINMAP, CMD, FUSE_ADDR, DESC, PAD_DATA, timing parameters)` (10_state.md R20, R40), with
the arguments `SIG_INDICES` and the widths of 00_scope.md R10. `N_DESC` is the number of rows of `DESC`. -/
structure Config where
  widths : Widths
  pinmap : PinMap
  cmd : CmdTable
  fuseAddr : FuseAddr
  desc : List Descriptor
  sigIndices : SigIndices
  padData : Byte
  timing : Timing
  deriving DecidableEq, Repr

/-- `N_DESC` (00_scope.md R10). -/
def Config.nDesc (c : Config) : Nat := c.desc.length

/-- The signature byte indices, in order (00_scope.md R10). -/
def Config.sigOrder (c : Config) : List Byte := [c.sigIndices.first, c.sigIndices.second]

/-- The six identifiers of a `PINMAP`. -/
def PinMap.ids (p : PinMap) : List Nat := [p.rst, p.vcc, p.sci, p.sii, p.sdi, p.sdo]

/-- The default `PINMAP`. OPEN in the spec (00_scope.md R10, D11). DESIGN CHOICE (log 2): six distinct numbers;
no rule depends on them. Safe. -/
def PinMap.default : PinMap := { rst := 0, vcc := 1, sci := 2, sii := 3, sdi := 4, sdo := 5 }

/-- The default `CMD` (30_encoding.md R90, general knowledge there: D5). PRESUMED by the spec (log 4). Unsafe. -/
def CmdTable.default : CmdTable where
  rdsb := [⟨.byte 0x08, 0x4C⟩, ⟨.operand, 0x0C⟩, ⟨.pad, 0x68⟩, ⟨.pad, 0x6C⟩]
  rdL := [⟨.byte 0x04, 0x4C⟩, ⟨.pad, 0x68⟩, ⟨.pad, 0x6C⟩]
  rdH := [⟨.byte 0x04, 0x4C⟩, ⟨.pad, 0x7A⟩, ⟨.pad, 0x7E⟩]
  rdE := [⟨.byte 0x04, 0x4C⟩, ⟨.pad, 0x6A⟩, ⟨.pad, 0x6E⟩]
  rdLk := [⟨.byte 0x04, 0x4C⟩, ⟨.pad, 0x78⟩, ⟨.pad, 0x7C⟩]
  wrL := [⟨.byte 0x40, 0x4C⟩, ⟨.operand, 0x2C⟩, ⟨.pad, 0x64⟩, ⟨.pad, 0x6C⟩]
  wrH := [⟨.byte 0x40, 0x4C⟩, ⟨.operand, 0x2C⟩, ⟨.pad, 0x74⟩, ⟨.pad, 0x7C⟩]
  wrE := [⟨.byte 0x40, 0x4C⟩, ⟨.operand, 0x2C⟩, ⟨.pad, 0x66⟩, ⟨.pad, 0x6E⟩]
  erase := [⟨.byte 0x80, 0x4C⟩, ⟨.pad, 0x64⟩, ⟨.pad, 0x6C⟩]

/-- The default `FUSE_ADDR` (30_encoding.md R92, D8). PRESUMED by the spec (log 4). Unsafe. -/
def FuseAddr.default : FuseAddr := { low := 0x646C, high := 0x747C, ext := 0x666E }

/-- The default `DESC` (10_state.md R41, D9). PRESUMED by the spec (log 4). Unsafe. -/
def Descriptor.defaultTable : List Descriptor :=
  [⟨0x9007, .fam2, 0x6A, 0xFF, none⟩,
   ⟨0x910B, .fam3, 0x62, 0xDF, some 0xFF⟩,
   ⟨0x9207, .fam3, 0x62, 0xDF, some 0xFF⟩,
   ⟨0x930C, .fam3, 0x62, 0xDF, some 0xFF⟩,
   ⟨0x9108, .fam3, 0x62, 0xDF, some 0xFF⟩,
   ⟨0x9206, .fam3, 0x62, 0xDF, some 0xFF⟩,
   ⟨0x930B, .fam3, 0x62, 0xDF, some 0xFF⟩]

/-- The default timing parameters (00_scope.md R10, D2, D4). `T_EDGE_MIN` is OPEN: DESIGN CHOICE (log 3), not set.
Safe. -/
def Timing.default : Timing where
  readyTimeout := 300000000
  vccSettle := 20000
  hvSettle := 10000
  pmStable := 300000
  edgeMin := none
  pollMin := 1

/-- The default widths (00_scope.md R10): a frame is one leading pad bit, eight data bits and two trailing pad bits. -/
def Widths.default : Widths := { frameBits := 11, padLead := 1, padTrail := 2, dataBits := 8, sigBits := 16 }

/-- The configuration with every parameter at the value 00_scope.md R10 gives as its default. -/
def Config.default : Config where
  widths := Widths.default
  pinmap := PinMap.default
  cmd := CmdTable.default
  fuseAddr := FuseAddr.default
  desc := Descriptor.defaultTable
  sigIndices := { first := 1, second := 2 }
  padData := 0x00
  timing := Timing.default

/-- FREE VALUE (log 5): `SdoOracle(trace, now)`, the level of the data-out line when the target drives it
(00_scope.md R8). It may depend on the whole trace and on the time; nothing constrains it. Safe. -/
opaque Config.sdoOracle : List Event → Nat → Bool

/-- FREE VALUE (log 6): by how much the `n`-th drawn duration exceeds its stated minimum (00_scope.md R15).
Nothing constrains it. Safe. -/
opaque Config.extraTime : Nat → Nat

/-- FREE VALUE (log 34): a number behind a value that the spec does not state, for the `n`-th operation that meets
one and the place in that operation where it stands. Nothing constrains it. Safe. -/
opaque Config.openNumber : Nat → List Nat → Nat

end Sys2Proof
end

