-- ==== Sys2Proof/Syntax.lean ====
section
/-! DEFINITION. The operations of the engine, one constructor per row of spec/opcode_table.json (30_encoding.md R93),
with the register names and expressions of `SET` (40_link.md R125). -/

namespace Sys2Proof

/-- The registers that `SET` writes (40_link.md R125): the internal registers of 10_state.md. The latches are written
by `PIN` alone (R21), the direction by `DIR` alone (R22), `now` by durations alone (R38), and the pc by the session
controller alone (00_scope.md R14), so none of those is named here. The names that begin with `o` are the fields of
the Session Outcome register (R36). -/
inductive Reg where
  | dout | iout | acc | bidx | rbyte
  | wstart | wres
  | sig | desc
  | action | locked0 | erased | escalated | wrote
  | oValid | oAction | oSignature | oDevice
  | oFuseL0 | oFuseH0 | oFuseE0 | oLockRaw0 | oLb1 | oLb2 | oLocked0
  | oErased | oEscalated | oWrote
  | oWrittenL | oWrittenH | oWrittenE
  | oFuseL1 | oFuseH1 | oFuseE1 | oLockRaw1 | oLocked1
  deriving DecidableEq, Repr

/-- What a `SET` expression names: a literal, a register or a latch of 10_state.md, or a part of the configuration
(40_link.md R125). -/
inductive Atom where
  /-- a number: an unsigned bit vector, one bit, an index or a time (00_scope.md R13) -/
  | num (n : Nat)
  | waitResult (r : WaitResult)
  /-- the value `unknown` of `desc` (10_state.md R30) -/
  | unknown
  | action (a : Action)
  | dir (d : Dir)
  | phase (p : Phase)
  | family (f : Family)
  /-- the value `absent` of an optional field (10_state.md R36, R41) -/
  | absent
  | reg (r : Reg)
  /-- the level held in an output latch (10_state.md R21) -/
  | latch (r : Role)
  | sdoDir
  /-- the two halves of the pc (10_state.md R31) -/
  | curPhase
  | curUpc
  | now
  | timing (t : TimeParam)
  | width (w : WidthParam)
  | padData
  | fuseAddr (x : FuseSel)
  /-- `PINMAP`: the identifier of a role; the role of the latch SDO_OUT is SDO (10_state.md R21) -/
  | pinId (r : Role)
  /-- the SDI half of `CMD[op][frame]`, frames counted from 1 (30_encoding.md R88) -/
  | cmdSdi (op : CmdOp) (frame : Nat)
  /-- the SII half of `CMD[op][frame]` -/
  | cmdSii (op : CmdOp) (frame : Nat)
  /-- `N_DESC` -/
  | rowCount
  /-- `SIG_INDICES[k]`, counted from 0 -/
  | sigIndex (k : Nat)
  deriving DecidableEq, Repr

/-- The operators of one operand in the spec's notation (00_scope.md R12, R13). -/
inductive UnOp where
  /-- `zext_N(v)` -/
  | zext (n : Nat)
  /-- `trunc_N(v)` -/
  | trunc (n : Nat)
  /-- `v << k`, keeping every bit: a `trunc` or the register says where bits are dropped -/
  | shl (k : Nat)
  /-- `v >> k` -/
  | shr (k : Nat)
  /-- the field `v[hi:lo]` -/
  | field (hi lo : Nat)
  /-- the bit `v[i]` -/
  | bit (i : Nat)
  /-- the other level of one bit -/
  | not
  /-- the row of `DESC` whose signature is `v`, or `unknown` (42_identify.md R163) -/
  | classify
  /-- the frame `F(v)` (30_encoding.md R80) -/
  | frame
  /-- the field of `DESC[v]` (10_state.md R41) -/
  | row (f : DescField)
  deriving DecidableEq, Repr

/-- The operators of two operands in the spec's notation (00_scope.md R12, R13). -/
inductive BinOp where
  /-- `a ++ b`, where `b` has `w` bits -/
  | cat (w : Nat)
  | bor
  | band
  | bxor
  | add
  | sub
  | eq
  | lt
  | le
  deriving DecidableEq, Repr

/-- The right side of a `SET`: a pure expression over registers and configuration (40_link.md R125). -/
inductive Expr where
  | atom (a : Atom)
  | un (op : UnOp) (e : Expr)
  | bin (op : BinOp) (a b : Expr)
  /-- `if c then a else b` -/
  | ite (c a b : Expr)
  deriving DecidableEq, Repr

/-- The value of a register, as an expression. -/
abbrev Expr.reg (r : Reg) : Expr := .atom (.reg r)

/-- A number, as an expression. -/
abbrev Expr.num (n : Nat) : Expr := .atom (.num n)

/-- One assignment `reg <- expr` of a `SET`. -/
structure Assign where
  reg : Reg
  expr : Expr
  deriving DecidableEq, Repr

/-- The operations of the engine (30_encoding.md R93), one constructor per row of spec/opcode_table.json. -/
inductive Instr where
  /-- `XFER d, i` (40_link.md R110) -/
  | xfer (d i : Byte)
  /-- `WAITRDY` (40_link.md R115) -/
  | waitrdy
  /-- `PIN role, b` (40_link.md R120) -/
  | pin (role : Role) (b : Bool)
  /-- `DIR SDO, in|out` (40_link.md R121) -/
  | dir (d : Dir)
  /-- `DELAY T` (40_link.md R122) -/
  | delay (t : TimeParam)
  /-- `SAMPLE` (40_link.md R123) -/
  | sample
  /-- `POLL` (40_link.md R124) -/
  | poll
  /-- `SET reg <- expr` (40_link.md R125), of several registers at once as in R126's `SET dout, iout <- F(d), F(i)` -/
  | set (assigns : List Assign)
  /-- `ENTER` (41_power.md R141) -/
  | enter
  /-- `EXIT` (41_power.md R144) -/
  | exit
  /-- `RDSB idx` (42_identify.md R160) -/
  | rdsb (idx : Byte)
  /-- `RDSIG` (42_identify.md R162) -/
  | rdsig
  /-- `CLASSIFY sig` (42_identify.md R163): `some v` classifies the operand `v`; `none`, the form without an operand
  of 30_encoding.md R97, classifies the register `sig` -/
  | classify (sig : Option Signature)
  /-- `RDF.L` (43_fuse_lock.md R181) -/
  | rdfL
  /-- `RDF.H` (43_fuse_lock.md R182) -/
  | rdfH
  /-- `RDF.E` (43_fuse_lock.md R183) -/
  | rdfE
  /-- `RDLK` (43_fuse_lock.md R184) -/
  | rdlk
  /-- `WRF.L v` (43_fuse_lock.md R186) -/
  | wrfL (v : Byte)
  /-- `WRF.H v` (43_fuse_lock.md R187) -/
  | wrfH (v : Byte)
  /-- `WRF.E v` (43_fuse_lock.md R188) -/
  | wrfE (v : Byte)
  /-- `ERASE` (44_erase.md R210) -/
  | erase
  /-- `SESSION a` (45_session.md R222); `none` is the absent action, which latches WriteDefaults (R221) -/
  | session (a : Option Action)
  deriving DecidableEq, Repr

end Sys2Proof
end

