-- ==== Sys2Proof/Decode.lean ====
section
/-! DEFINITION. The decoder and the encoder of the operations that send frames (30_encoding.md R81, R86 to R92).
An encoded operation is the list of its frame pairs in the order they are sent. The micro-operations, ENTER, EXIT,
CLASSIFY, WAITRDY and SESSION have no encoding (30_encoding.md R94, R95). -/

namespace Sys2Proof

/-- A frame pair as the 16-bit word `d << 8 | i` (30_encoding.md R81). -/
def FramePair.toWord (p : FramePair) : BitVec 16 := p.sdi ++ p.sii

/-- The frame pair of a 16-bit word (30_encoding.md R81). -/
def FramePair.ofWord (w : BitVec 16) : FramePair :=
  { sdi := w.extractLsb' 8 8, sii := w.extractLsb' 0 8 }

/-- Why a list of frame pairs (or of bytes) is no operation. -/
inductive DecodeError where
  /-- an odd number of bytes is no list of frame pairs (20_memory.md R67) -/
  | oddBytes
  /-- there is no frame pair at all -/
  | noPairs
  /-- no operation has this many frame pairs (30_encoding.md R86, R162) -/
  | badLength (pairs : Nat)
  /-- the length is an operation's, the pairs are in no row of `CMD` (30_encoding.md R87, R96) -/
  | noSuchSequence
  deriving DecidableEq, Repr

/-- The value on SDI of an entry of `CMD` whose operand is `v` (30_encoding.md R83). -/
def SdiField.resolve (pad v : Byte) : SdiField → Byte
  | .byte b => b
  | .pad => pad
  | .operand => v

/-- The frame pair of an entry of `CMD` whose operand is `v`. -/
def CmdEntry.pair (pad v : Byte) (e : CmdEntry) : FramePair := { sdi := e.sdi.resolve pad v, sii := e.sii }

/-- The 16-bit constant of a selector (30_encoding.md R92). -/
def FuseAddr.get (a : FuseAddr) : FuseSel → BitVec 16
  | .low => a.low
  | .high => a.high
  | .ext => a.ext

/-- `CMD[WR.x]`. -/
def CmdTable.write (t : CmdTable) : FuseSel → List CmdEntry
  | .low => t.wrL
  | .high => t.wrH
  | .ext => t.wrE

/-- The sequence of `CMD` of a name. -/
def CmdTable.get (t : CmdTable) : CmdOp → List CmdEntry
  | .rdsb => t.rdsb
  | .rdL => t.rdL
  | .rdH => t.rdH
  | .rdE => t.rdE
  | .rdLk => t.rdLk
  | .wrL => t.wrL
  | .wrH => t.wrH
  | .wrE => t.wrE
  | .erase => t.erase

/-- `CMD[RD.x]` of a fuse selector. -/
def CmdTable.read (t : CmdTable) : FuseSel → List CmdEntry
  | .low => t.rdL
  | .high => t.rdH
  | .ext => t.rdE

/-- The entries of a fuse write (43_fuse_lock.md R185): the first two from `CMD`, then the address bytes of
`FUSE_ADDR` on SII, high byte first (20_memory.md R65), with `PAD_DATA` on SDI. In a valid configuration these are
the entries of `CMD` (Machine/Setup.lean; 30_encoding.md R89). -/
def Config.writeEntries (c : Config) (x : FuseSel) : List CmdEntry :=
  (c.cmd.write x).take 2 ++
    [⟨.pad, (c.fuseAddr.get x).extractLsb' 8 8⟩, ⟨.pad, (c.fuseAddr.get x).extractLsb' 0 8⟩]

/-- The frame pairs of `RDSB idx` (42_identify.md R160). -/
def Config.rdsbPairs (c : Config) (idx : Byte) : List FramePair := c.cmd.rdsb.map (·.pair c.padData idx)

/-- The frame pairs of `RDSIG`: `RDSB` of each index of `SIG_INDICES`, in order (42_identify.md R162). -/
def Config.rdsigPairs (c : Config) : List FramePair := c.sigOrder.flatMap c.rdsbPairs

/-- The frame pairs of a fuse read (43_fuse_lock.md R180). -/
def Config.readPairs (c : Config) (x : FuseSel) : List FramePair := (c.cmd.read x).map (·.pair c.padData 0)

/-- The frame pairs of `RDLK` (43_fuse_lock.md R184). -/
def Config.lockPairs (c : Config) : List FramePair := c.cmd.rdLk.map (·.pair c.padData 0)

/-- The frame pairs of a fuse write (43_fuse_lock.md R185). -/
def Config.writePairs (c : Config) (x : FuseSel) (v : Byte) : List FramePair :=
  (c.writeEntries x).map (·.pair c.padData v)

/-- The frame pairs of `ERASE` (44_erase.md R210). -/
def Config.erasePairs (c : Config) : List FramePair := c.cmd.erase.map (·.pair c.padData 0)

/-- Whether the byte seen on SDI is the one the entry asks for; an operand takes any byte. -/
def SdiField.accepts (pad b : Byte) : SdiField → Bool
  | .byte c => c = b
  | .pad => pad = b
  | .operand => true

/-- Read a whole sequence against its entries, keeping the operand (30_encoding.md R87: by sequence, not by a single
frame pair). -/
def matchSeq (pad : Byte) : List CmdEntry → List FramePair → Byte → Option Byte
  | [], [], v => some v
  | e :: es, p :: ps, v =>
    if e.sii = p.sii ∧ e.sdi.accepts pad p.sdi then
      matchSeq pad es ps (if e.sdi = .operand then p.sdi else v)
    else none
  | [], _ :: _, _ => none
  | _ :: _, [], _ => none

/-- `RDSIG` is `RDSB` of the two signature indices (42_identify.md R162). -/
def decodeRdsig (c : Config) (ps : List FramePair) : Option Instr :=
  if ps = c.rdsigPairs then some .rdsig else none

/-- The operations that are one sequence of `CMD`, in the order of spec/opcode_table.json. DESIGN CHOICE (log 35):
where a valid `CMD` gives two operations one sequence, which R87 rules out for the default `CMD` only, the first in
that order is decoded. -/
def decodeSeq (c : Config) (ps : List FramePair) : Option Instr :=
  (matchSeq c.padData c.cmd.rdsb ps 0).map .rdsb
  <|> decodeRdsig c ps
  <|> (matchSeq c.padData c.cmd.rdL ps 0).map (fun _ => .rdfL)
  <|> (matchSeq c.padData c.cmd.rdH ps 0).map (fun _ => .rdfH)
  <|> (matchSeq c.padData c.cmd.rdE ps 0).map (fun _ => .rdfE)
  <|> (matchSeq c.padData c.cmd.rdLk ps 0).map (fun _ => .rdlk)
  <|> (matchSeq c.padData (c.writeEntries .low) ps 0).map .wrfL
  <|> (matchSeq c.padData (c.writeEntries .high) ps 0).map .wrfH
  <|> (matchSeq c.padData (c.writeEntries .ext) ps 0).map .wrfE
  <|> (matchSeq c.padData c.cmd.erase ps 0).map (fun _ => .erase)

/-- The numbers of frame pairs an operation may have (30_encoding.md R86; one for XFER, eight for RDSIG). -/
def operationLengths : List Nat := [1, 3, 4, 8]

/-- The operation that a list of frame pairs encodes. One pair is an `XFER` (30_encoding.md R81, 40_link.md R110);
every longer list is decided by the whole sequence (30_encoding.md R87). -/
def decodePairs (c : Config) (ps : List FramePair) : Except DecodeError Instr :=
  match ps with
  | [] => .error .noPairs
  | [p] => .ok (.xfer p.sdi p.sii)
  | _ =>
    if ps.length ∈ operationLengths then
      match decodeSeq c ps with
      | some i => .ok i
      | none => .error .noSuchSequence
    else .error (.badLength ps.length)

/-- The frame pairs of a list of bytes, the SDI byte of each pair first (log 11). -/
def pairsOfBytes : List Byte → Except DecodeError (List FramePair)
  | [] => .ok []
  | [_] => .error .oddBytes
  | d :: i :: rest => (pairsOfBytes rest).map (⟨d, i⟩ :: ·)

/-- The decoder on bytes: total, rejecting by name. -/
def decodeBytes (c : Config) (bs : List Byte) : Except DecodeError Instr :=
  (pairsOfBytes bs).bind (decodePairs c)

/-- The frame pairs of an operation, from the same tables; `none` for an operation without an encoding. -/
def encode (c : Config) : Instr → Option (List FramePair)
  | .xfer d i => some [⟨d, i⟩]
  | .rdsb idx => some (c.rdsbPairs idx)
  | .rdsig => some c.rdsigPairs
  | .rdfL => some (c.readPairs .low)
  | .rdfH => some (c.readPairs .high)
  | .rdfE => some (c.readPairs .ext)
  | .rdlk => some c.lockPairs
  | .wrfL v => some (c.writePairs .low v)
  | .wrfH v => some (c.writePairs .high v)
  | .wrfE v => some (c.writePairs .ext v)
  | .erase => some c.erasePairs
  | .waitrdy | .pin _ _ | .dir _ | .delay _ | .sample | .poll | .set _ => none
  | .enter | .exit | .classify _ | .session _ => none

/-- The frame pairs of an opcode-table number of `n` pair words: spec/opcode_table.json puts pair 1 in the most
significant word ("pair 1 in bits 63:48"), each word `d << 8 | i` (log 11). -/
def pairsOfNumber : Nat → Nat → List FramePair
  | 0, _ => []
  | n + 1, w => FramePair.ofWord (BitVec.ofNat 16 (w >>> (16 * n))) :: pairsOfNumber n w

/-- The number of pair words of an opcode-table row of `nbits` bits. -/
def pairWords (nbits : Nat) : Nat := (nbits + 15) / 16

/-- The operation the decoder reads from an opcode-table number, under the default configuration, whose bytes are the
table's match bytes (30_encoding.md R90). -/
def decodeTableWord (nbits w : Nat) : Option Instr :=
  match decodePairs Config.default (pairsOfNumber (pairWords nbits) w) with
  | .ok i => some i
  | .error _ => none

end Sys2Proof
end

