-- ==== Sys2Proof/WellFormed.lean ====
section
/-! DEFINITION. Which operations are well formed, and what kind of value each register holds. Every operand field of an
operation fits by its type; what is left to check is `SET` (40_link.md R125): it assigns something, it names each
register once, and its fields and its frame numbers of `CMD` are there. A `SET` that is not well formed runs as well
(Machine/Micro.lean); what the spec does not state of it is a free value (log 21). -/

namespace Sys2Proof

/-- The kinds of value that the registers of 10_state.md and the parts of the configuration hold. -/
inductive Ty where
  /-- an unsigned bit vector of `w` bits; a flag or a level is one of 1 bit -/
  | bits (w : Nat)
  /-- a frame bit index, 0 to 10 (R26) -/
  | index
  /-- a natural number: a time (R28, R38), or a number whose width is not stated -/
  | nat
  | waitResult
  /-- `unknown` or the index of a row of `DESC` (R30) -/
  | device
  | action
  | family
  /-- a value or `absent` (R36, R41) -/
  | opt (t : Ty)
  deriving DecidableEq, Repr

/-- The kind and width of each register (10_state.md R24 to R36). -/
def Reg.ty : Reg → Ty
  | .dout | .iout | .acc => .bits frameBits
  | .bidx => .index
  | .rbyte => .bits dataBits
  | .wstart => .nat
  | .wres => .waitResult
  | .sig => .bits sigBits
  | .desc => .device
  | .action | .oAction => .action
  | .locked0 | .erased | .escalated | .wrote => .bits 1
  | .oValid | .oErased | .oEscalated | .oWrote => .bits 1
  | .oSignature => .opt (.bits sigBits)
  | .oDevice => .opt .device
  | .oFuseL0 | .oFuseH0 | .oFuseE0 | .oLockRaw0 => .opt (.bits dataBits)
  | .oLb1 | .oLb2 | .oLocked0 | .oLocked1 => .opt (.bits 1)
  | .oWrittenL | .oWrittenH | .oWrittenE => .opt (.bits dataBits)
  | .oFuseL1 | .oFuseH1 | .oFuseE1 | .oLockRaw1 => .opt (.bits dataBits)

/-- How many frame pairs a sequence of `CMD` has (30_encoding.md R86). -/
def CmdOp.pairCount : CmdOp → Nat
  | .rdsb | .wrL | .wrH | .wrE => 4
  | .rdL | .rdH | .rdE | .rdLk | .erase => 3

/-- A named part that is there: a frame of `CMD` (30_encoding.md R86), one of the two `SIG_INDICES`. -/
def Atom.inRange : Atom → Bool
  | .cmdSdi op n | .cmdSii op n => decide (1 ≤ n ∧ n ≤ op.pairCount)
  | .sigIndex k => decide (k < 2)
  | .num _ | .waitResult _ | .unknown | .action _ | .dir _ | .phase _ | .family _ | .absent => true
  | .reg _ | .latch _ | .sdoDir | .curPhase | .curUpc | .now | .timing _ | .width _ | .padData | .fuseAddr _ => true
  | .pinId _ | .rowCount => true

/-- A field `v[hi:lo]` whose bounds are in order (00_scope.md R12). -/
def UnOp.inRange : UnOp → Bool
  | .field hi lo => decide (lo ≤ hi)
  | .zext _ | .trunc _ | .shl _ | .shr _ | .bit _ | .not | .classify | .frame | .row _ => true

/-- Every part of an expression that has a range is within it. -/
def Expr.inRange : Expr → Bool
  | .atom a => a.inRange
  | .un op e => op.inRange && e.inRange
  | .bin _ a b => a.inRange && b.inRange
  | .ite c a b => c.inRange && a.inRange && b.inRange

/-- The assignments of a well-formed `SET`: at least one, every expression in range, no register named twice. -/
def assignsOk (as : List Assign) : Bool :=
  !as.isEmpty && as.all (fun a => a.expr.inRange) && decide ((as.map Assign.reg).Nodup)

/-- A well-formed operation. -/
def Instr.wellFormed : Instr → Bool
  | .set as => assignsOk as
  | .xfer _ _ | .waitrdy | .pin _ _ | .dir _ | .delay _ | .sample | .poll => true
  | .enter | .exit | .rdsb _ | .rdsig | .classify _ => true
  | .rdfL | .rdfH | .rdfE | .rdlk | .wrfL _ | .wrfH _ | .wrfE _ => true
  | .erase | .session _ => true

end Sys2Proof
end

