-- ==== Sys2Proof/Machine/State.lean ====
section
/-! DEFINITION. The state of the engine (10_state.md R20 to R45), the reasons a step stops, and the state after
reset. -/

namespace Sys2Proof.Machine

/-- The six output latches (10_state.md R21); `true` is level 1. -/
structure Lines where
  rst : Bool
  vcc : Bool
  sci : Bool
  sii : Bool
  sdi : Bool
  sdoOut : Bool
  deriving DecidableEq, Repr

/-- The registers of the Bit-Serial Link (10_state.md R24 to R27). -/
structure Link where
  dout : Frame
  iout : Frame
  acc : Frame
  bidx : BitIdx
  rbyte : Byte
  deriving DecidableEq, Repr

/-- The readiness timer (10_state.md R28). -/
structure Wait where
  wstart : Nat
  wres : WaitResult
  deriving DecidableEq, Repr

/-- The registers of the Device Identifier (10_state.md R29, R30); `desc = none` is `unknown`. -/
structure Ident where
  sig : Signature
  desc : Option DescIdx
  deriving DecidableEq, Repr

/-- The program counter `pc = (phase, upc)` (10_state.md R31). -/
structure Pc where
  phase : Phase
  upc : Nat
  deriving DecidableEq, Repr

/-- The session registers and flags (10_state.md R33, R34). -/
structure Session where
  action : Action
  locked0 : Bool
  erased : Bool
  escalated : Bool
  wrote : Bool
  deriving DecidableEq, Repr

/-- The Session Outcome register (10_state.md R36); `none` is `absent`. A `device` of `some none` is the value
`unknown`. -/
structure SessionOutcome where
  valid : Bool
  action : Action
  signature : Option Signature
  device : Option (Option DescIdx)
  fuseL0 : Option Byte
  fuseH0 : Option Byte
  fuseE0 : Option Byte
  lockRaw0 : Option Byte
  lb1 : Option Bool
  lb2 : Option Bool
  locked0 : Option Bool
  erased : Bool
  escalated : Bool
  wrote : Bool
  writtenL : Option Byte
  writtenH : Option Byte
  writtenE : Option Byte
  fuseL1 : Option Byte
  fuseH1 : Option Byte
  fuseE1 : Option Byte
  lockRaw1 : Option Byte
  locked1 : Option Bool
  deriving DecidableEq, Repr

/-- MODEL (log 5, log 6, log 34): what the environment is going to give. `samples` are the answers of the target to the next
samples and `delays` the extra times of the next draws; where a list is empty the free value of Config answers.
`draws` counts the durations drawn, `opens` the operations that have met a value the spec does not state. -/
structure Env where
  samples : List Bool
  delays : List Nat
  draws : Nat
  opens : Nat
  deriving DecidableEq, Repr

/-- The host's inputs (60_exceptions.md R277): a trigger pending for the next step, and the action input. -/
structure HostPort where
  trigger : Bool
  action : Option Action
  deriving DecidableEq, Repr

/-- MODEL (log 10): one operation the test harness of 95_test_vectors.md section 3 asks for, by its frame pairs or by
name (an operation without an encoding has only a name). -/
inductive Issue where
  | words (ps : List FramePair)
  | op (i : Instr)
  deriving DecidableEq, Repr

/-- The state of the machine: the record `S` of 10_state.md R20, the read-only configuration `C` (R40, log 1), the
registers that still hold no value of the spec's (R45, log 7), whether the fault `ReadUnwritten` is recorded
(60_exceptions.md R263, log 8), and the interface fields. -/
structure State where
  cfg : Config
  pins : Lines
  sdoDir : Dir
  link : Link
  wait : Wait
  ident : Ident
  pc : Pc
  sess : Session
  outcome : SessionOutcome
  now : Nat
  trace : List Event
  unwritten : List Reg
  readUnwritten : Bool
  env : Env
  host : HostPort
  issue : List Issue
  deriving DecidableEq, Repr

/-- The model fault that stops a step (60_exceptions.md R263). It is safe: the hardware goes on where the model stops,
and no session reaches it. The other fault of R263, `ReadUnwritten`, stops nothing: it is recorded in State (log 8). -/
inductive Fault where
  /-- raised by SAMPLE and POLL, and by the operations that contain one, while `sdo_dir = out`
  (60_exceptions.md R264); safe -/
  | sampleWhileOutput
  deriving DecidableEq, Repr

/-- The refusals. -/
inductive Refusal where
  /-- raised by exec's arm of an operation that has no meaning yet; safe -/
  | notModelled (mnemonic : String)
  /-- raised by every step and every operation when the configuration is not valid (60_exceptions.md R265); safe -/
  | badConfig
  /-- raised by a host read of the outcome while `outcome.valid = 0` (60_exceptions.md R266); safe -/
  | outcomeNotValid
  /-- raised by a step in IDLE whose issued frame pairs are no operation's (30_encoding.md R96, log 10); safe -/
  | undecodable (e : DecodeError)
  deriving DecidableEq, Repr

/-- What a step, or the meaning of an operation, answers. -/
abbrev Result := Host.Outcome State Fault Refusal

/-- The latches at reset and after EXIT (10_state.md R45, 41_power.md R145). -/
def Lines.resting : Lines :=
  { rst := true, vcc := false, sci := false, sii := false, sdi := false, sdoOut := false }

/-- The registers that 10_state.md R45 calls unspecified at reset. -/
def resetUnwritten : List Reg :=
  [.dout, .iout, .acc, .bidx, .rbyte, .wstart, .sig, .desc, .action, .locked0, .erased, .escalated, .wrote,
   .oAction, .oSignature, .oDevice, .oFuseL0, .oFuseH0, .oFuseE0, .oLockRaw0, .oLb1, .oLb2, .oLocked0,
   .oErased, .oEscalated, .oWrote, .oWrittenL, .oWrittenH, .oWrittenE,
   .oFuseL1, .oFuseH1, .oFuseE1, .oLockRaw1, .oLocked1]

/-- An outcome with `valid = 0` and every field at the value log 7 names (DESIGN CHOICE, unsafe: R45 calls them
unspecified, and a read of one records the fault ReadUnwritten, log 8). -/
def SessionOutcome.blank : SessionOutcome where
  valid := false
  action := .writeDefaults
  signature := none
  device := none
  fuseL0 := none
  fuseH0 := none
  fuseE0 := none
  lockRaw0 := none
  lb1 := none
  lb2 := none
  locked0 := none
  erased := false
  escalated := false
  wrote := false
  writtenL := none
  writtenH := none
  writtenE := none
  fuseL1 := none
  fuseH1 := none
  fuseE1 := none
  lockRaw1 := none
  locked1 := none

/-- The state after reset (10_state.md R45, 70_reset_and_hazards.md R290) under a configuration. The registers of
`resetUnwritten` hold the values that log 7 names (DESIGN CHOICE, unsafe). -/
def State.resetWith (c : Config) : State where
  cfg := c
  pins := Lines.resting
  sdoDir := .input
  link := { dout := 0, iout := 0, acc := 0, bidx := 0, rbyte := 0 }
  wait := { wstart := 0, wres := .none }
  ident := { sig := 0, desc := none }
  pc := { phase := .idle, upc := 0 }
  sess := { action := .writeDefaults, locked0 := false, erased := false, escalated := false, wrote := false }
  outcome := SessionOutcome.blank
  now := 0
  trace := []
  unwritten := resetUnwritten
  readUnwritten := false
  env := { samples := [], delays := [], draws := 0, opens := 0 }
  host := { trigger := false, action := none }
  issue := []

/-- The machine right after reset, with the default configuration of 00_scope.md R10. -/
def State.reset : State := State.resetWith Config.default

end Sys2Proof.Machine
end

