-- ==== Sys2Proof/Machine/Flags.lean ====
section
/-! DEFINITION. The flag computations: the lock decode (10_state.md R35) and the session flags (10_state.md R34,
45_session.md R227). -/

namespace Sys2Proof.Machine

/-- `LB1 = lb[0]` (10_state.md R35); `false` is "programmed". -/
def lockBit1 (lb : Byte) : Bool := lb.getLsbD 0

/-- `LB2 = lb[1]` (10_state.md R35). -/
def lockBit2 (lb : Byte) : Bool := lb.getLsbD 1

/-- `locked = (lb[0] = 0)` (10_state.md R35); bits 7..1 do not matter. -/
def isLocked (lb : Byte) : Bool := !lockBit1 lb

/-- Whether an erase is an escalation: the action was WriteDefaults (45_session.md R222, R227). -/
def isEscalation (a : Action) : Bool := a = .writeDefaults

/-- The action latched from the host's input: absent gives WriteDefaults (10_state.md R33). -/
def latchedAction (a : Option Action) : Action := a.getD .writeDefaults

end Sys2Proof.Machine
end

