-- ==== Sys2Proof/Machine/Operands.lean ====
section
/-! DEFINITION. Frame composition, the result of a transfer, the signature, and the classification: the arithmetic of
30_encoding.md R80 to R84, 40_link.md R111 to R114, 42_identify.md R161 and R163. -/

namespace Sys2Proof.Machine

/-- `F(b)`: the byte above `PAD_TRAIL` low bits, `zext_11(b) << 2` (30_encoding.md R80, 40_link.md R111). -/
def frameOf (w : Widths) (b : Byte) : Frame := (b.zeroExtend frameBits) <<< w.padTrail

/-- `trunc_11((acc << 1) | b)` (40_link.md R113, R123). -/
def shiftIn (acc : Frame) (b : Bool) : Frame := (acc <<< 1) ||| BitVec.ofNat frameBits b.toNat

/-- The data bits of the accumulator, `trunc_8(acc >> 2) = acc[9:2]` (40_link.md R114, 90_conflicts.md C7). -/
def returnedByte (w : Widths) (acc : Frame) : Byte := (acc >>> w.padTrail).truncate dataBits

/-- `trunc_16((sig << 8) + b)` (42_identify.md R161). -/
def appendSig (w : Widths) (sig : Signature) (b : Byte) : Signature := (sig <<< w.dataBits) + b.zeroExtend sigBits

/-- The bits of a frame in the order they are shifted, bit `FRAME_BITS - 1` first (20_memory.md R63). -/
def frameBitOrder (w : Widths) : List BitIdx := (List.range w.frameBits).reverse.map (Fin.ofNat frameBits)

/-- The row whose signature is `sig`, or unknown (42_identify.md R163): an exact match on all 16 bits. -/
def classifySig (table : List Descriptor) (sig : Signature) : Option DescIdx :=
  table.findIdx? fun d => d.signature = sig

/-- A timing parameter; `T_EDGE_MIN` asks for nothing while it is not set (00_scope.md R10, log 23). -/
def timingOf (t : Timing) : TimeParam → Nat
  | .readyTimeout => t.readyTimeout
  | .vccSettle => t.vccSettle
  | .hvSettle => t.hvSettle
  | .pmStable => t.pmStable
  | .edgeMin => t.edgeMin.getD 0
  | .pollMin => t.pollMin

/-- FREE VALUE (log 34): the number behind an unstated value, at a place of the operation that runs. -/
def State.openNumber (s : State) (place : List Nat) : Nat := Config.openNumber s.env.opens place

/-- FREE VALUE (log 24): the row `DESC[desc]` where `desc` names none. 45_session.md R222 asks for the row only after
the test for `unknown`, and the spec states no row there. -/
def State.openRow (s : State) : Descriptor where
  signature := BitVec.ofNat sigBits (s.openNumber [0])
  family := if s.openNumber [1] % 2 = 0 then .fam2 else .fam3
  lfuseDef := BitVec.ofNat dataBits (s.openNumber [2])
  hfuseDef := BitVec.ofNat dataBits (s.openNumber [3])
  efuseDef := if s.openNumber [4] % 2 = 0 then none else some (BitVec.ofNat dataBits (s.openNumber [4] / 2))

/-- The row of `DESC` that `desc` names, if it names one (10_state.md R30). -/
def State.knownRow (s : State) : Option Descriptor := s.ident.desc.bind fun k => s.cfg.desc[k]?

/-- `DESC[desc]` (45_session.md R222). -/
def State.row (s : State) : Descriptor := s.knownRow.getD s.openRow

end Sys2Proof.Machine
end

