-- ==== Sys2Proof/Machine/Setup.lean ====
section
/-! DEFINITION. Which configurations the engine starts from (60_exceptions.md R265). -/

namespace Sys2Proof.Machine

/-- The widths are those that 00_scope.md R11 fixes, and a frame is its data bits between a leading and a trailing pad
(30_encoding.md R80, 40_link.md R127). That other widths are refused is the model's choice (log 31). -/
def widthsOk (c : Config) : Bool :=
  c.widths.frameBits == frameBits && c.widths.dataBits == dataBits && c.widths.sigBits == sigBits
    && c.widths.padLead + c.widths.dataBits + c.widths.padTrail == c.widths.frameBits
    && c.widths.padLead != 0 && c.widths.padTrail != 0

/-- `PINMAP` maps the six roles to six distinct identifiers (10_state.md R40). -/
def pinmapOk (c : Config) : Bool := decide c.pinmap.ids.Nodup

/-- A row has an EFUSE default exactly when its family has three fuses (10_state.md R41, R42). -/
def rowOk (d : Descriptor) : Bool :=
  match d.family with
  | .fam2 => d.efuseDef.isNone
  | .fam3 => d.efuseDef.isSome

/-- `DESC` has pairwise distinct signatures and rows that agree with their family (10_state.md R41, R42). -/
def descOk (c : Config) : Bool :=
  decide (c.desc.map (·.signature)).Nodup && c.desc.all rowOk

/-- An entry whose SDI byte is fixed by the configuration. -/
def fixedEntry (e : CmdEntry) : Bool := e.sdi != .operand

/-- The shape of a sequence without operand: `n` fixed frame pairs (30_encoding.md R86, R88). -/
def fixedShape (n : Nat) (es : List CmdEntry) : Bool := es.length == n && es.all fixedEntry

/-- The shape of a sequence of four frame pairs whose operand is on SDI in frame 2 (30_encoding.md R83, R88). -/
def operandShape : List CmdEntry → Bool
  | [e1, e2, e3, e4] => fixedEntry e1 && e2.sdi == .operand && fixedEntry e3 && fixedEntry e4
  | _ => false

/-- `CMD` has the shapes of 30_encoding.md R86 and R88. -/
def cmdOk (c : Config) : Bool :=
  operandShape c.cmd.rdsb
    && fixedShape 3 c.cmd.rdL && fixedShape 3 c.cmd.rdH && fixedShape 3 c.cmd.rdE && fixedShape 3 c.cmd.rdLk
    && operandShape c.cmd.wrL && operandShape c.cmd.wrH && operandShape c.cmd.wrE
    && fixedShape 3 c.cmd.erase

/-- Frames 3 and 4 of a fuse write have the bytes of its Fuse Address on SII (30_encoding.md R92) and `PAD_DATA` on
SDI (43_fuse_lock.md R185; log 27). -/
def addrFramesOk (c : Config) (x : FuseSel) : Bool :=
  ((c.cmd.write x).drop 2).map (·.pair c.padData 0)
    == [⟨c.padData, (c.fuseAddr.get x).extractLsb' 8 8⟩, ⟨c.padData, (c.fuseAddr.get x).extractLsb' 0 8⟩]

/-- `FUSE_ADDR`: three distinct constants that agree with `CMD` (30_encoding.md R92). -/
def fuseAddrOk (c : Config) : Bool :=
  decide [c.fuseAddr.low, c.fuseAddr.high, c.fuseAddr.ext].Nodup
    && addrFramesOk c .low && addrFramesOk c .high && addrFramesOk c .ext

/-- A valid configuration; the engine refuses to start from any other (60_exceptions.md R265). R265 names no condition
on `SIG_INDICES`: DESIGN CHOICE (log 38), any two bytes are valid. -/
def configOk (c : Config) : Bool :=
  widthsOk c && pinmapOk c && descOk c && cmdOk c && fuseAddrOk c && c.timing.pollMin != 0

end Sys2Proof.Machine
end

