-- ==== Sys2Proof/Machine/Ops.lean ====
section
/-! DEFINITION. The named operations over the registers, the lines, the time and the trace: the primitives of
00_scope.md R14 and the one path by which a register is written. The engine has no memory (20_memory.md R60) and takes
no exception (60_exceptions.md R260, R269), so there is no operation for either. -/

namespace Sys2Proof.Machine

/-! ## Registers -/

/-- A value written to or read from a register, or the value of an expression. A bit vector, a level, an index and a
time are unsigned numbers (00_scope.md R13). -/
inductive Val where
  | num (n : Nat)
  /-- `desc = unknown` (10_state.md R30) -/
  | unknown
  /-- the value of an optional field that holds none (10_state.md R36) -/
  | absent
  | waitResult (r : WaitResult)
  | action (a : Action)
  | dir (d : Dir)
  | phase (p : Phase)
  | family (f : Family)
  deriving DecidableEq, Repr

/-- The value of a bit vector. -/
def Val.ofBits {w : Nat} (b : BitVec w) : Val := .num b.toNat

/-- The value of one bit. -/
def Val.flag (b : Bool) : Val := .num b.toNat

/-- The value of a frame bit index. -/
def Val.index (j : BitIdx) : Val := .num j.val

/-- The value of `desc` (10_state.md R30). -/
def Val.device (d : Option DescIdx) : Val := d.elim .unknown .num

/-- The value of an outcome field that may be absent. -/
def Val.ofByte? (b : Option Byte) : Val := b.elim .absent Val.ofBits

def Val.ofFlag? (b : Option Bool) : Val := b.elim .absent Val.flag

/-- The number a value stands for; 0 where it is none (`State.put` is given a value of the register's kind). -/
def Val.toNat : Val → Nat
  | .num n => n
  | _ => 0

def Val.toFlag (v : Val) : Bool := v.toNat == 1

def Val.toIndex (v : Val) : BitIdx := Fin.ofNat frameBits v.toNat

def Val.toWaitResult : Val → WaitResult
  | .waitResult r => r
  | _ => .none

def Val.toDevice : Val → Option DescIdx
  | .num k => some k
  | _ => none

def Val.toAction : Val → Action
  | .action a => a
  | _ => .writeDefaults

/-- A field of the outcome that may be absent: a value of `f` where there is one. -/
def Val.toOpt {α : Type} (f : Val → α) : Val → Option α
  | .absent => none
  | v => some (f v)

def Val.toByte (v : Val) : Byte := BitVec.ofNat dataBits v.toNat

def Val.toSignature (v : Val) : Signature := BitVec.ofNat sigBits v.toNat

def Val.toByte? (v : Val) : Option Byte := v.toOpt Val.toByte

def Val.toSignature? (v : Val) : Option Signature := v.toOpt Val.toSignature

def Val.toFlag? (v : Val) : Option Bool := v.toOpt Val.toFlag

def Val.toDevice? (v : Val) : Option (Option DescIdx) := v.toOpt Val.toDevice

/-- Whether a value is one of a kind; `rows` is `N_DESC`. -/
def kindAccepts (rows : Nat) : Ty → Val → Bool
  | .bits w, .num n => decide (n < 2 ^ w)
  | .index, .num n => decide (n < frameBits)
  | .nat, .num _ => true
  | .waitResult, .waitResult _ => true
  | .device, .num k => decide (k < rows)
  | .device, .unknown => true
  | .action, .action _ => true
  | .family, .family _ => true
  | .opt _, .absent => true
  | .opt t, v => kindAccepts rows t v
  | _, _ => false

/-- The value of a kind that a number stands for: every value of the kind is reached (log 34). -/
def kindValue (rows : Nat) : Ty → Nat → Val
  | .bits w, n => .num (n % 2 ^ w)
  | .index, n => .num (n % frameBits)
  | .nat, n => .num n
  | .waitResult, n => .waitResult (if n % 3 = 0 then .none else if n % 3 = 1 then .ready else .expired)
  | .device, n => if n % (rows + 1) = rows then .unknown else .num (n % (rows + 1))
  | .action, n => .action (if n % 3 = 0 then .readOnly else if n % 3 = 1 then .erase else .writeDefaults)
  | .family, n => .family (if n % 2 = 0 then .fam2 else .fam3)
  | .opt t, n => if n % 2 = 0 then .absent else kindValue rows t (n / 2)

/-- FREE VALUE (log 34): any value of a kind, at a place of the operation that runs. -/
def State.openValue (s : State) (place : List Nat) (t : Ty) : Val :=
  kindValue s.cfg.nDesc t (s.openNumber place)

/-- The environment after an operation has met a value that the spec does not state. -/
def Env.opened (e : Env) : Env := { e with opens := e.opens + 1 }

/-- Count an operation that has met an unstated value, so that the next one meets another (log 34). -/
def countOpen (met : Bool) (s : State) : State := { s with env := if met then s.env.opened else s.env }

/-- The value a register holds. -/
def State.readReg (s : State) : Reg → Val
  | .dout => .ofBits s.link.dout
  | .iout => .ofBits s.link.iout
  | .acc => .ofBits s.link.acc
  | .bidx => .index s.link.bidx
  | .rbyte => .ofBits s.link.rbyte
  | .wstart => .num s.wait.wstart
  | .wres => .waitResult s.wait.wres
  | .sig => .ofBits s.ident.sig
  | .desc => .device s.ident.desc
  | .action => .action s.sess.action
  | .locked0 => .flag s.sess.locked0
  | .erased => .flag s.sess.erased
  | .escalated => .flag s.sess.escalated
  | .wrote => .flag s.sess.wrote
  | .oValid => .flag s.outcome.valid
  | .oAction => .action s.outcome.action
  | .oSignature => s.outcome.signature.elim .absent Val.ofBits
  | .oDevice => s.outcome.device.elim .absent Val.device
  | .oFuseL0 => .ofByte? s.outcome.fuseL0
  | .oFuseH0 => .ofByte? s.outcome.fuseH0
  | .oFuseE0 => .ofByte? s.outcome.fuseE0
  | .oLockRaw0 => .ofByte? s.outcome.lockRaw0
  | .oLb1 => .ofFlag? s.outcome.lb1
  | .oLb2 => .ofFlag? s.outcome.lb2
  | .oLocked0 => .ofFlag? s.outcome.locked0
  | .oErased => .flag s.outcome.erased
  | .oEscalated => .flag s.outcome.escalated
  | .oWrote => .flag s.outcome.wrote
  | .oWrittenL => .ofByte? s.outcome.writtenL
  | .oWrittenH => .ofByte? s.outcome.writtenH
  | .oWrittenE => .ofByte? s.outcome.writtenE
  | .oFuseL1 => .ofByte? s.outcome.fuseL1
  | .oFuseH1 => .ofByte? s.outcome.fuseH1
  | .oFuseE1 => .ofByte? s.outcome.fuseE1
  | .oLockRaw1 => .ofByte? s.outcome.lockRaw1
  | .oLocked1 => .ofFlag? s.outcome.locked1

/-- Store a value in a register (00_scope.md R14, `x <- v`). -/
def State.store (s : State) (v : Val) : Reg → State
  | .dout => { s with link := { s.link with dout := BitVec.ofNat frameBits v.toNat } }
  | .iout => { s with link := { s.link with iout := BitVec.ofNat frameBits v.toNat } }
  | .acc => { s with link := { s.link with acc := BitVec.ofNat frameBits v.toNat } }
  | .bidx => { s with link := { s.link with bidx := v.toIndex } }
  | .rbyte => { s with link := { s.link with rbyte := BitVec.ofNat dataBits v.toNat } }
  | .wstart => { s with wait := { s.wait with wstart := v.toNat } }
  | .wres => { s with wait := { s.wait with wres := v.toWaitResult } }
  | .sig => { s with ident := { s.ident with sig := BitVec.ofNat sigBits v.toNat } }
  | .desc => { s with ident := { s.ident with desc := v.toDevice } }
  | .action => { s with sess := { s.sess with action := v.toAction } }
  | .locked0 => { s with sess := { s.sess with locked0 := v.toFlag } }
  | .erased => { s with sess := { s.sess with erased := v.toFlag } }
  | .escalated => { s with sess := { s.sess with escalated := v.toFlag } }
  | .wrote => { s with sess := { s.sess with wrote := v.toFlag } }
  | .oValid => { s with outcome := { s.outcome with valid := v.toFlag } }
  | .oAction => { s with outcome := { s.outcome with action := v.toAction } }
  | .oSignature => { s with outcome := { s.outcome with signature := v.toSignature? } }
  | .oDevice => { s with outcome := { s.outcome with device := v.toDevice? } }
  | .oFuseL0 => { s with outcome := { s.outcome with fuseL0 := v.toByte? } }
  | .oFuseH0 => { s with outcome := { s.outcome with fuseH0 := v.toByte? } }
  | .oFuseE0 => { s with outcome := { s.outcome with fuseE0 := v.toByte? } }
  | .oLockRaw0 => { s with outcome := { s.outcome with lockRaw0 := v.toByte? } }
  | .oLb1 => { s with outcome := { s.outcome with lb1 := v.toFlag? } }
  | .oLb2 => { s with outcome := { s.outcome with lb2 := v.toFlag? } }
  | .oLocked0 => { s with outcome := { s.outcome with locked0 := v.toFlag? } }
  | .oErased => { s with outcome := { s.outcome with erased := v.toFlag } }
  | .oEscalated => { s with outcome := { s.outcome with escalated := v.toFlag } }
  | .oWrote => { s with outcome := { s.outcome with wrote := v.toFlag } }
  | .oWrittenL => { s with outcome := { s.outcome with writtenL := v.toByte? } }
  | .oWrittenH => { s with outcome := { s.outcome with writtenH := v.toByte? } }
  | .oWrittenE => { s with outcome := { s.outcome with writtenE := v.toByte? } }
  | .oFuseL1 => { s with outcome := { s.outcome with fuseL1 := v.toByte? } }
  | .oFuseH1 => { s with outcome := { s.outcome with fuseH1 := v.toByte? } }
  | .oFuseE1 => { s with outcome := { s.outcome with fuseE1 := v.toByte? } }
  | .oLockRaw1 => { s with outcome := { s.outcome with lockRaw1 := v.toByte? } }
  | .oLocked1 => { s with outcome := { s.outcome with locked1 := v.toFlag? } }

/-- The register now holds a value of the spec's (70_reset_and_hazards.md R292). -/
def State.markWritten (s : State) (r : Reg) : State :=
  { s with unwritten := s.unwritten.filter fun x => x ≠ r }

/-- The registers `rs` are read: a read of one of them before its first write records the fault `ReadUnwritten`
(70_reset_and_hazards.md R292), which nothing clears (60_exceptions.md R263). The reader goes on with the value the
register holds (log 7, log 8). -/
def noteReads (rs : List Reg) (s : State) : State :=
  { s with readUnwritten := s.readUnwritten || rs.any fun r => s.unwritten.contains r }

/-- Write a register: the one path by which any operation does. -/
def State.put (s : State) (r : Reg) (v : Val) : State := (s.store v r).markWritten r

/-- Write several registers, in order. -/
def State.putAll (s : State) (ws : List (Reg × Val)) : State := ws.foldl (fun t w => t.put w.1 w.2) s

/-! ## Lines -/

/-- The level held in a latch. -/
def Lines.get (l : Lines) : Role → Bool
  | .rst => l.rst
  | .vcc => l.vcc
  | .sci => l.sci
  | .sii => l.sii
  | .sdi => l.sdi
  | .sdoOut => l.sdoOut

/-- The latches with one of them written. -/
def Lines.set (l : Lines) (b : Bool) : Role → Lines
  | .rst => { l with rst := b }
  | .vcc => { l with vcc := b }
  | .sci => { l with sci := b }
  | .sii => { l with sii := b }
  | .sdi => { l with sdi := b }
  | .sdoOut => { l with sdoOut := b }

/-! ## Time and the trace -/

/-- By how much the next drawn duration exceeds its minimum (00_scope.md R15): any value (log 6). -/
def State.extra (s : State) : Nat := s.env.delays.headD (Config.extraTime s.env.draws)

/-- The environment after a duration has been drawn. -/
def Env.drawn (e : Env) : Env := { e with delays := e.delays.tail, draws := e.draws + 1 }

/-- The environment after the target has answered a sample and its duration has been drawn. -/
def Env.sampled (e : Env) : Env := { e.drawn with samples := e.samples.tail }

/-- Whether an event is a latch write. -/
def isLevelEvent (e : Event) : Bool :=
  match e.kind with
  | .level _ _ => true
  | _ => false

/-- Whether an event is a sample. -/
def isSampleEvent (e : Event) : Bool :=
  match e.kind with
  | .sample _ => true
  | _ => false

/-- The time of the last latch write of a trace. -/
def lastPinTime (tr : List Event) : Option Nat := (tr.reverse.find? isLevelEvent).map (·.time)

/-- The earliest time at which a latch may be written: now, and at least `T_EDGE_MIN` after the previous latch write
when that is set (40_link.md R119, R120; log 15). -/
def State.edgeTime (s : State) : Nat :=
  match s.cfg.timing.edgeMin, lastPinTime s.trace with
  | some d, some t => max s.now (t + d)
  | _, _ => s.now

/-- `Pin(role, b)` (00_scope.md R14, 40_link.md R120): write the latch, append the event, take a drawn duration. -/
def pin (role : Role) (b : Bool) (s : State) : State :=
  { s with
    pins := s.pins.set b role
    trace := s.trace ++ [⟨s.edgeTime, .level role b⟩]
    now := s.edgeTime + s.extra
    env := s.env.drawn }

/-- `Dir(SDO, d)` (00_scope.md R14, 40_link.md R121). -/
def setDir (d : Dir) (s : State) : State :=
  { s with
    sdoDir := d
    trace := s.trace ++ [⟨s.now, .dir d⟩]
    now := s.now + s.extra
    env := s.env.drawn }

/-- Let at least `d` nanoseconds pass (00_scope.md R14, R15). -/
def elapse (d : Nat) (s : State) : State :=
  { s with now := s.now + d + s.extra, env := s.env.drawn }

/-- `Delay(T)` (40_link.md R122). -/
def delay (t : TimeParam) (s : State) : State := elapse (timingOf s.cfg.timing t) s

/-- The bit the target answers to a sample at this moment (00_scope.md R8): any value (log 5). -/
def State.sdoLevel (s : State) : Bool := s.env.samples.headD (Config.sdoOracle s.trace s.now)

/-- `Sample()` (00_scope.md R14): append the event, take a drawn duration. Its bit is `s.sdoLevel`. -/
def observe (s : State) : State :=
  { s with
    trace := s.trace ++ [⟨s.now, .sample s.sdoLevel⟩]
    now := s.now + s.extra
    env := s.env.sampled }

/-- SAMPLE: the sampled bit enters the accumulator (40_link.md R113, R123). -/
def sampleIn (s : State) : State :=
  (observe s).put .acc (.ofBits (shiftIn s.link.acc s.sdoLevel))

/-! ## The readiness wait -/

/-- Whether `now - wstart` of a POLL has no stated value: `wstart` lies after `now`, which only a SET of `wstart` can
bring about (00_scope.md R13; log 36). -/
def deadlineOpen (s : State) : Bool := decide ((observe s).now < s.wait.wstart)

/-- The deadline test of a POLL, after its sample (40_link.md R115; log 14). DESIGN CHOICE (log 36): where the
difference has no stated value, the outcome of the test is free. -/
def deadlinePassed (s : State) : Bool :=
  if deadlineOpen s then s.openNumber [] % 2 == 1
  else decide (s.cfg.timing.readyTimeout ≤ (observe s).now - s.wait.wstart)

/-- Whether a POLL ends the wait: a high sample, or a low one at or past the deadline (40_link.md R115, R124). -/
def pollEnds (s : State) : Bool := s.sdoLevel || deadlinePassed s

/-- POLL: one iteration of the readiness wait (40_link.md R115, R124). A high sample wins at the deadline
(60_exceptions.md R268). -/
def pollOnce (s : State) : State :=
  if s.sdoLevel then (observe s).put .wres (.waitResult .ready)
  else
    let t := countOpen (deadlineOpen s) (observe s)
    if deadlinePassed s then t.put .wres (.waitResult .expired) else delay .pollMin t

/-- The loop of the wait, of at most `n` polls (40_link.md R115). -/
def pollLoop : Nat → State → State
  | 0, s => s
  | n + 1, s => if pollEnds s then pollOnce s else pollLoop n (pollOnce s)

/-- As many polls as a wait can need: each one that goes on takes at least `T_POLL_MIN` (40_link.md R118; log 13). -/
def maxPolls (t : Timing) : Nat := t.readyTimeout / t.pollMin + 2

/-- `WaitReady()` (40_link.md R115): its outcome is left in `wres`, which nothing reads (R116). -/
def waitReady (s : State) : State :=
  pollLoop (maxPolls s.cfg.timing) (s.put .wstart (.num s.now))

/-! ## When an operation may run -/

/-- No operation runs from a configuration that is not valid (60_exceptions.md R265; log 17). -/
def whenConfigured (s : State) (r : Result) : Result :=
  if configOk s.cfg then r else .refused .badConfig

/-- No sample is taken while the engine drives the data-out line (60_exceptions.md R264). -/
def whenSampling (s : State) (r : Result) : Result :=
  match s.sdoDir with
  | .input => r
  | .output => .fault .sampleWhileOutput

end Sys2Proof.Machine
end

