-- ==== Sys2Proof/Machine/HostPort.lean ====
section
/-! DEFINITION. What the host may do between two steps (60_exceptions.md R277): set the action input, raise the trigger,
read the outcome. -/

namespace Sys2Proof.Machine

/-- The host sets the action input, at any time (60_exceptions.md R277). -/
def hostSetAction (a : Option Action) (s : State) : State := { s with host := { s.host with action := a } }

/-- The host raises the trigger, at any time (45_session.md R220, 60_exceptions.md R277). -/
def hostTrigger (s : State) : State := { s with host := { s.host with trigger := true } }

/-- The fields of the outcome register other than `valid`. -/
def outcomeFields : List Reg :=
  [.oAction, .oSignature, .oDevice, .oFuseL0, .oFuseH0, .oFuseE0, .oLockRaw0, .oLb1, .oLb2, .oLocked0,
   .oErased, .oEscalated, .oWrote, .oWrittenL, .oWrittenH, .oWrittenE,
   .oFuseL1, .oFuseH1, .oFuseE1, .oLockRaw1, .oLocked1]

/-- The host reads the outcome (10_state.md R37, 60_exceptions.md R266): the outcome, and the state after the read, or
refused while `valid = 0`. The read changes nothing but the record of reads before a first write (log 29). -/
def hostReadOutcome (s : State) : Host.Outcome (SessionOutcome × State) Fault Refusal :=
  if s.outcome.valid then .next (s.outcome, noteReads outcomeFields s) else .refused .outcomeNotValid

end Sys2Proof.Machine
end

