-- ==== Sys2Proof/Machine/Expr.lean ====
section
/-! DEFINITION. The value of a `SET` expression (40_link.md R125; notation of 00_scope.md R12, R13), and what a `SET`
writes. Where the spec states no value (the row of an unknown device, a difference below zero, a value that the
register cannot hold) the value is free (log 21, log 34), and everything computed from it is computed from that. -/

namespace Sys2Proof.Machine

/-! ## What the operators give -/

/-- The value of a field of a descriptor (10_state.md R41). -/
def fieldValue (d : Descriptor) : DescField → Val
  | .signature => .ofBits d.signature
  | .family => .family d.family
  | .lfuse => .ofBits d.lfuseDef
  | .hfuse => .ofBits d.hfuseDef
  | .efuse => .ofByte? d.efuseDef

/-- The identifier of a role (10_state.md R21). -/
def pinIdOf (p : PinMap) : Role → Nat
  | .rst => p.rst
  | .vcc => p.vcc
  | .sci => p.sci
  | .sii => p.sii
  | .sdi => p.sdi
  | .sdoOut => p.sdo

/-- The entry `CMD[op][n]`, frames counted from 1 (30_encoding.md R88). -/
def cmdEntry (c : Config) (op : CmdOp) (n : Nat) : Option CmdEntry :=
  if n = 0 then none else (c.cmd.get op)[n - 1]?

/-- The SDI byte of an entry; the operand of an operation is no part of the configuration (30_encoding.md R83). -/
def fixedSdi (pad : Byte) : SdiField → Option Byte
  | .byte b => some b
  | .pad => some pad
  | .operand => none

/-- The value of a part of an expression, where it has one. `T_EDGE_MIN` has none while it is not set (00_scope.md
R10), nor has a frame that `CMD` lacks. -/
def atomValue (s : State) : Atom → Option Val
  | .num n => some (.num n)
  | .waitResult r => some (.waitResult r)
  | .unknown => some .unknown
  | .action a => some (.action a)
  | .dir d => some (.dir d)
  | .phase p => some (.phase p)
  | .family f => some (.family f)
  | .absent => some .absent
  | .reg r => some (s.readReg r)
  | .latch r => some (.flag (s.pins.get r))
  | .sdoDir => some (.dir s.sdoDir)
  | .curPhase => some (.phase s.pc.phase)
  | .curUpc => some (.num s.pc.upc)
  | .now => some (.num s.now)
  | .timing .edgeMin => s.cfg.timing.edgeMin.map .num
  | .timing t => some (.num (timingOf s.cfg.timing t))
  | .width w => some (.num (s.cfg.widths.get w))
  | .padData => some (.ofBits s.cfg.padData)
  | .fuseAddr x => some (.ofBits (s.cfg.fuseAddr.get x))
  | .pinId r => some (.num (pinIdOf s.cfg.pinmap r))
  | .cmdSdi op n => ((cmdEntry s.cfg op n).bind fun e => fixedSdi s.cfg.padData e.sdi).map .ofBits
  | .cmdSii op n => (cmdEntry s.cfg op n).map fun e => .ofBits e.sii
  | .rowCount => some (.num s.cfg.nDesc)
  | .sigIndex k => s.cfg.sigOrder[k]?.map .ofBits

/-- The value of an operator of one operand, where the spec states one. -/
def unValue (c : Config) : UnOp → Val → Option Val
  | .zext n, .num v => if v < 2 ^ n then some (.num v) else none
  | .trunc n, .num v => some (.num (v % 2 ^ n))
  | .shl k, .num v => some (.num (v * 2 ^ k))
  | .shr k, .num v => some (.num (v / 2 ^ k))
  | .field hi lo, .num v => if lo ≤ hi then some (.num (v / 2 ^ lo % 2 ^ (hi - lo + 1))) else none
  | .bit i, .num v => some (.flag (v.testBit i))
  | .not, .num v => if v = 0 then some (.num 1) else if v = 1 then some (.num 0) else none
  | .classify, .num v =>
    if v < 2 ^ sigBits then some (.device (classifySig c.desc (BitVec.ofNat sigBits v))) else none
  | .frame, .num v => if v < 2 ^ dataBits then some (.ofBits (frameOf c.widths (BitVec.ofNat dataBits v))) else none
  | .row f, .num k => c.desc[k]?.map fun d => fieldValue d f
  | _, _ => none

/-- The value of an operator of two operands, where the spec states one. Two values of any kinds are compared by
`=`. -/
def binValue : BinOp → Val → Val → Option Val
  | .cat w, .num a, .num b => if b < 2 ^ w then some (.num (a * 2 ^ w + b)) else none
  | .bor, .num a, .num b => some (.num (a ||| b))
  | .band, .num a, .num b => some (.num (a &&& b))
  | .bxor, .num a, .num b => some (.num (a ^^^ b))
  | .add, .num a, .num b => some (.num (a + b))
  | .sub, .num a, .num b => if b ≤ a then some (.num (a - b)) else none
  | .lt, .num a, .num b => some (.flag (decide (a < b)))
  | .le, .num a, .num b => some (.flag (decide (a ≤ b)))
  | .eq, a, b => some (.flag (decide (a = b)))
  | _, _, _ => none

/-- The branch that a condition takes, where its value is one bit. -/
def condValue : Val → Option Bool
  | .num 0 => some false
  | .num 1 => some true
  | _ => none

/-! ## The kind of an unstated value -/

/-- The kind of a field of a descriptor (10_state.md R41). -/
def fieldKind : DescField → Ty
  | .signature => .bits sigBits
  | .family => .family
  | .lfuse | .hfuse => .bits dataBits
  | .efuse => .opt (.bits dataBits)

/-- The kind of a part of an expression that may have no value. -/
def atomKind : Atom → Ty
  | .cmdSdi _ _ | .cmdSii _ _ | .sigIndex _ => .bits dataBits
  | _ => .nat

/-- The kind of an operator's result where the spec states no value. -/
def unKind : UnOp → Ty
  | .zext n | .trunc n => .bits n
  | .shl _ | .shr _ => .nat
  | .field hi lo => .bits (hi - lo + 1)
  | .bit _ | .not => .bits 1
  | .classify => .device
  | .frame => .bits frameBits
  | .row f => fieldKind f

/-- The kind of an operator's result where the spec states no value. -/
def binKind : BinOp → Ty
  | .cat _ | .bor | .band | .bxor | .add | .sub => .nat
  | .eq | .lt | .le => .bits 1

/-! ## Expressions -/

/-- The value of an expression at a place of the `SET` that is running. -/
def evalExpr (s : State) : Expr → List Nat → Val
  | .atom a, place => (atomValue s a).getD (s.openValue place (atomKind a))
  | .un op e, place => (unValue s.cfg op (evalExpr s e (0 :: place))).getD (s.openValue place (unKind op))
  | .bin op a b, place =>
    (binValue op (evalExpr s a (0 :: place)) (evalExpr s b (1 :: place))).getD (s.openValue place (binKind op))
  | .ite c a b, place =>
    if (condValue (evalExpr s c (0 :: place))).getD (s.openNumber place % 2 == 1) then evalExpr s a (1 :: place)
    else evalExpr s b (2 :: place)

/-- Whether the value of an expression has an unstated value among its parts. -/
def exprOpen (s : State) : Expr → List Nat → Bool
  | .atom a, _ => (atomValue s a).isNone
  | .un op e, place => exprOpen s e (0 :: place) || (unValue s.cfg op (evalExpr s e (0 :: place))).isNone
  | .bin op a b, place =>
    exprOpen s a (0 :: place) || exprOpen s b (1 :: place)
      || (binValue op (evalExpr s a (0 :: place)) (evalExpr s b (1 :: place))).isNone
  | .ite c a b, place =>
    exprOpen s c (0 :: place) || (condValue (evalExpr s c (0 :: place))).isNone
      || exprOpen s a (1 :: place) || exprOpen s b (2 :: place)

/-- The registers a part of an expression reads. -/
def atomReads : Atom → List Reg
  | .reg r => [r]
  | _ => []

/-- The registers an expression reads. -/
def exprReads : Expr → List Reg
  | .atom a => atomReads a
  | .un _ e => exprReads e
  | .bin _ a b => exprReads a ++ exprReads b
  | .ite c a b => exprReads c ++ exprReads a ++ exprReads b

/-! ## What a SET writes -/

/-- The registers a `SET` reads. -/
def setReads (as : List Assign) : List Reg := as.flatMap fun a => exprReads a.expr

/-- The value of the `j`-th expression of a `SET`: every expression is read in the state before the `SET`. -/
def assignedValue (s : State) (a : Assign) (j : Nat) : Val := evalExpr s a.expr [0, j]

/-- Whether the spec states what a register holds after a `SET` that gives it `v`: it can hold `v`, and the `SET`
names it once. -/
def settles (s : State) (as : List Assign) (r : Reg) (v : Val) : Bool :=
  kindAccepts s.cfg.nDesc r.ty v && (as.map Assign.reg).count r == 1

/-- What the `j`-th assignment writes; a value that is not stated is any value of the register's kind (log 21). -/
def writtenValue (s : State) (as : List Assign) (a : Assign) (j : Nat) : Val :=
  if settles s as a.reg (assignedValue s a j) then assignedValue s a j else s.openValue [1, j] a.reg.ty

/-- The values a `SET` writes. -/
def setWrites (s : State) (as : List Assign) : List (Reg × Val) :=
  as.zipIdx.map fun x => (x.1.reg, writtenValue s as x.1 x.2)

/-- Whether a `SET` meets a value that the spec does not state. -/
def setOpen (s : State) (as : List Assign) : Bool :=
  as.zipIdx.any fun x => exprOpen s x.1.expr [0, x.2] || !settles s as x.1.reg (assignedValue s x.1 x.2)

end Sys2Proof.Machine
end

