-- ==== Sys2Proof/Machine/Micro.lean ====
section
/-! DEFINITION. The micro-operations (40_link.md R120 to R125): each is one atomic step of the engine. -/

namespace Sys2Proof.Machine

/-- PIN role, b (40_link.md R120). -/
def execPin (role : Role) (b : Bool) (s : State) : Result := whenConfigured s (.next (pin role b s))

/-- DIR SDO, in|out (40_link.md R121). -/
def execDir (d : Dir) (s : State) : Result := whenConfigured s (.next (setDir d s))

/-- DELAY T (40_link.md R122). -/
def execDelay (t : TimeParam) (s : State) : Result := whenConfigured s (.next (delay t s))

/-- SAMPLE (40_link.md R123). It reads `acc`. -/
def execSample (s : State) : Result :=
  whenConfigured s (whenSampling s (.next (sampleIn (noteReads [.acc] s))))

/-- POLL (40_link.md R124). It reads `wstart`, but not after a high sample. -/
def execPoll (s : State) : Result :=
  whenConfigured s (whenSampling s (.next (pollOnce (noteReads (if s.sdoLevel then [] else [.wstart]) s))))

/-- SET reg <- expr (40_link.md R125): no time, no event. It runs whatever its expressions are (log 21). -/
def execSet (as : List Assign) (s : State) : Result :=
  whenConfigured s (.next (countOpen (setOpen s as) ((noteReads (setReads as) s).putAll (setWrites s as))))

end Sys2Proof.Machine
end

