-- ==== Sys2Proof/Machine/Link.lean ====
section
/-! DEFINITION. The Bit-Serial Link: the transfer and the readiness wait (40_link.md R110 to R119). -/

namespace Sys2Proof.Machine

/-- Frame composition and the clearing of the accumulator (40_link.md R111, R112). -/
def composeFrames (d i : Byte) (s : State) : State :=
  ((s.put .dout (.ofBits (frameOf s.cfg.widths d))).put .iout (.ofBits (frameOf s.cfg.widths i))).put .acc (.num 0)

/-- The shift step of frame bit `j` (40_link.md R113): the two data lines, the sample, the clock pulse. -/
def shiftBit (j : BitIdx) (s : State) : State :=
  let s1 := s.put .bidx (.index j)
  let s2 := pin .sdi (s1.link.dout.getLsbD j) s1
  let s3 := pin .sii (s2.link.iout.getLsbD j) s2
  pin .sci false (pin .sci true (sampleIn s3))

/-- The shift of all the bits of a frame, most-significant first (40_link.md R113). -/
def shiftFrames (s : State) : State := (frameBitOrder s.cfg.widths).foldl (fun t j => shiftBit j t) s

/-- The result of the transfer (40_link.md R114). -/
def latchResult (s : State) : State := s.put .rbyte (.ofBits (returnedByte s.cfg.widths s.link.acc))

/-- The transfer of one frame pair (40_link.md R110). Its result is left in `rbyte`. -/
def transfer (d i : Byte) (s : State) : State :=
  latchResult (shiftFrames (waitReady (composeFrames d i s)))

/-- A sequence of frame pairs, one transfer each (30_encoding.md R86). -/
def transferAll (ps : List FramePair) (s : State) : State := ps.foldl (fun t p => transfer p.sdi p.sii t) s

/-- XFER d, i (40_link.md R110). -/
def execXfer (d i : Byte) (s : State) : Result :=
  whenConfigured s (whenSampling s (.next (transfer d i s)))

/-- WAITRDY (40_link.md R115). -/
def execWaitrdy (s : State) : Result := whenConfigured s (whenSampling s (.next (waitReady s)))

end Sys2Proof.Machine
end

