-- ==== Sys2Proof/Machine/Eraser.lean ====
section
/-! DEFINITION. The Chip Eraser (44_erase.md R210, R211). -/

namespace Sys2Proof.Machine

/-- Send the erase sequence, then wait for its completion (44_erase.md R210). -/
def eraseChip (s : State) : State := waitReady (transferAll s.cfg.erasePairs s)

/-- ERASE (44_erase.md R210). -/
def execErase (s : State) : Result := whenConfigured s (whenSampling s (.next (eraseChip s)))

end Sys2Proof.Machine
end

