-- ==== Sys2Proof/Machine/FuseLock.lean ====
section
/-! DEFINITION. The Fuse/Lock Accessor (43_fuse_lock.md R180 to R190). -/

namespace Sys2Proof.Machine

/-- Read a fuse byte (43_fuse_lock.md R180); the byte is left in `rbyte`. -/
def readFuse (x : FuseSel) (s : State) : State := transferAll (s.cfg.readPairs x) s

/-- Read the lock byte and wait once more (43_fuse_lock.md R184); the byte is left in `rbyte`, and the decode
`locked` is `isLocked` of it (10_state.md R35). -/
def readLock (s : State) : State := waitReady (transferAll s.cfg.lockPairs s)

/-- Write a fuse byte (43_fuse_lock.md R185). -/
def writeFuse (x : FuseSel) (v : Byte) (s : State) : State := transferAll (s.cfg.writePairs x v) s

/-- RDF.L (43_fuse_lock.md R181). -/
def execRdfL (s : State) : Result := whenConfigured s (whenSampling s (.next (readFuse .low s)))

/-- RDF.H (43_fuse_lock.md R182). -/
def execRdfH (s : State) : Result := whenConfigured s (whenSampling s (.next (readFuse .high s)))

/-- RDF.E (43_fuse_lock.md R183). -/
def execRdfE (s : State) : Result := whenConfigured s (whenSampling s (.next (readFuse .ext s)))

/-- RDLK (43_fuse_lock.md R184). -/
def execRdlk (s : State) : Result := whenConfigured s (whenSampling s (.next (readLock s)))

/-- WRF.L v (43_fuse_lock.md R186). -/
def execWrfL (v : Byte) (s : State) : Result := whenConfigured s (whenSampling s (.next (writeFuse .low v s)))

/-- WRF.H v (43_fuse_lock.md R187). -/
def execWrfH (v : Byte) (s : State) : Result := whenConfigured s (whenSampling s (.next (writeFuse .high v s)))

/-- WRF.E v (43_fuse_lock.md R188). -/
def execWrfE (v : Byte) (s : State) : Result := whenConfigured s (whenSampling s (.next (writeFuse .ext v s)))

end Sys2Proof.Machine
end

