-- ==== Sys2Proof/Machine/Identify.lean ====
section
/-! DEFINITION. The Device Identifier (42_identify.md R160 to R164). -/

namespace Sys2Proof.Machine

/-- Read one signature byte (42_identify.md R160); the byte is left in `rbyte`. -/
def readSigByte (idx : Byte) (s : State) : State := transferAll (s.cfg.rdsbPairs idx) s

/-- Add the byte just read to the signature (42_identify.md R161). -/
def accumulateSig (s : State) : State := s.put .sig (.ofBits (appendSig s.cfg.widths s.ident.sig s.link.rbyte))

/-- Read the 16-bit signature: a byte for each index of `SIG_INDICES`, in order (42_identify.md R162). -/
def readSignature (s : State) : State :=
  s.cfg.sigOrder.foldl (fun t idx => accumulateSig (readSigByte idx t)) (s.put .sig (.num 0))

/-- Classify a signature (42_identify.md R163). -/
def classify (sig : Signature) (s : State) : State := s.put .desc (.device (classifySig s.cfg.desc sig))

/-- RDSB idx (42_identify.md R160). -/
def execRdsb (idx : Byte) (s : State) : Result :=
  whenConfigured s (whenSampling s (.next (readSigByte idx s)))

/-- RDSIG (42_identify.md R162). -/
def execRdsig (s : State) : Result := whenConfigured s (whenSampling s (.next (readSignature s)))

/-- CLASSIFY sig (42_identify.md R163). Without an operand it reads the register `sig` (log 19). -/
def execClassify (sig : Option Signature) (s : State) : Result :=
  whenConfigured s <|
    match sig with
    | some v => .next (classify v s)
    | none => .next (classify s.ident.sig (noteReads [.sig] s))

end Sys2Proof.Machine
end

