-- ==== Sys2Proof/Machine/Power.lean ====
section
/-! DEFINITION. The Power Sequencer (41_power.md R140 to R147). -/

namespace Sys2Proof.Machine

/-- Enter programming mode, in the mandated order (41_power.md R141, R142). -/
def enterMode (s : State) : State :=
  let low := setDir .output (pin .sdoOut false (pin .sii false (pin .sdi false s)))
  let powered := delay .vccSettle (pin .vcc true (pin .rst true low))
  let hv := delay .hvSettle (pin .rst false powered)
  delay .pmStable (setDir .input hv)

/-- Leave programming mode (41_power.md R144). -/
def exitMode (s : State) : State := pin .rst true (pin .vcc false (pin .sci false s))

/-- ENTER (41_power.md R141). -/
def execEnter (s : State) : Result := whenConfigured s (.next (enterMode s))

/-- EXIT (41_power.md R144). -/
def execExit (s : State) : Result := whenConfigured s (.next (exitMode s))

end Sys2Proof.Machine
end

