-- ==== Sys2Proof/Machine/Session.lean ====
section
/-! DEFINITION. The Session Controller as the pseudocode of 45_session.md R222: one session, from its start to the
return to IDLE. The same session as the sequencer runs it, one micro-operation a step, is Machine/Sequencer.lean. -/

namespace Sys2Proof.Machine

/-- The optional fields of the outcome, which a session start makes absent (45_session.md R221). -/
def optionalFields : List Reg :=
  [.oSignature, .oDevice, .oFuseL0, .oFuseH0, .oFuseE0, .oLockRaw0, .oLb1, .oLb2, .oLocked0,
   .oWrittenL, .oWrittenH, .oWrittenE, .oFuseL1, .oFuseH1, .oFuseE1, .oLockRaw1, .oLocked1]

/-- Session start (45_session.md R221). -/
def startSession (a : Option Action) (s : State) : State :=
  let flags := s.putAll
    [(.action, .action (latchedAction a)),
     (.locked0, .flag false), (.erased, .flag false), (.escalated, .flag false), (.wrote, .flag false),
     (.oValid, .flag false), (.oAction, .action (latchedAction a))]
  (flags.putAll (optionalFields.map fun r => (r, .absent))).putAll
    [(.oErased, .flag false), (.oEscalated, .flag false), (.oWrote, .flag false)]

/-- Record the byte just returned in a field of the outcome. -/
def recordByte (r : Reg) (s : State) : State := s.put r (.ofBits s.link.rbyte)

/-- P_IDENT (45_session.md R222, R225). -/
def identPhase (s : State) : State :=
  let t := readSignature s
  let u := classify t.ident.sig t
  u.putAll [(.oSignature, .ofBits u.ident.sig), (.oDevice, .device u.ident.desc)]

/-- Read the fuse bytes of a descriptor into three fields of the outcome: LFUSE, HFUSE, and EFUSE only where the
descriptor has one (45_session.md R226, R230). -/
def readFuses (d : Descriptor) (l h e : Reg) (s : State) : State :=
  let t := recordByte h (readFuse .high (recordByte l (readFuse .low s)))
  if d.efuseDef.isSome then recordByte e (readFuse .ext t) else t

/-- P_READ (45_session.md R222, R226). -/
def readPhase (d : Descriptor) (s : State) : State :=
  let t := readLock (readFuses d .oFuseL0 .oFuseH0 .oFuseE0 s)
  t.putAll
    [(.oLockRaw0, .ofBits t.link.rbyte), (.oLb1, .flag (lockBit1 t.link.rbyte)),
     (.oLb2, .flag (lockBit2 t.link.rbyte)), (.locked0, .flag (isLocked t.link.rbyte)),
     (.oLocked0, .flag (isLocked t.link.rbyte))]

/-- P_ERASE (45_session.md R222, R229). -/
def erasePhase (s : State) : State :=
  let t := eraseChip s
  t.putAll
    [(.erased, .flag true), (.escalated, .flag (isEscalation t.sess.action)),
     (.oErased, .flag true), (.oEscalated, .flag (isEscalation t.sess.action))]

/-- P_WRITE (45_session.md R222, R228): the defaults, whether or not they equal the bytes read. -/
def writePhase (d : Descriptor) (s : State) : State :=
  let t := writeFuse .high d.hfuseDef (writeFuse .low d.lfuseDef s)
  match d.efuseDef with
  | none =>
    t.putAll
      [(.wrote, .flag true), (.oWrote, .flag true),
       (.oWrittenL, .ofBits d.lfuseDef), (.oWrittenH, .ofBits d.hfuseDef)]
  | some e =>
    (writeFuse .ext e t).putAll
      [(.wrote, .flag true), (.oWrote, .flag true),
       (.oWrittenL, .ofBits d.lfuseDef), (.oWrittenH, .ofBits d.hfuseDef), (.oWrittenE, .ofBits e)]

/-- P_VERIFY (45_session.md R222, R230, R231): read back, and the lock byte only after an erase. -/
def verifyPhase (d : Descriptor) (s : State) : State :=
  let t := readFuses d .oFuseL1 .oFuseH1 .oFuseE1 s
  if t.sess.erased then
    let u := readLock t
    u.putAll [(.oLockRaw1, .ofBits u.link.rbyte), (.oLocked1, .flag (isLocked u.link.rbyte))]
  else t

/-- P_EXIT: leave programming mode, publish the outcome, return to IDLE (45_session.md R222, R232). -/
def exitPhase (s : State) : State :=
  let t := (exitMode s).put .oValid (.flag true)
  { t with pc := { phase := .idle, upc := 0 } }

/-- What P_READ is followed by (45_session.md R222, R227): ReadOnly first, then the erase, then the write. -/
def actPhases (d : Descriptor) (s : State) : State :=
  if s.sess.action = .readOnly then s
  else if s.sess.action = .erase || s.sess.locked0 then
    let t := erasePhase s
    if t.sess.action = .writeDefaults then verifyPhase d (writePhase d t) else verifyPhase d t
  else verifyPhase d (writePhase d s)

/-- One whole session (45_session.md R222). -/
def runSession (a : Option Action) (s : State) : State :=
  let t := identPhase (enterMode (startSession a s))
  if t.ident.desc = none then exitPhase t else exitPhase (actPhases t.row (readPhase t.row t))

/-- SESSION a (45_session.md R222). A session starts only in IDLE; anywhere else the request is ignored
(45_session.md R220). -/
def execSession (a : Option Action) (s : State) : Result :=
  whenConfigured s (if s.pc.phase = .idle then .next (runSession a s) else .next s)

end Sys2Proof.Machine
end

