-- ==== Sys2Proof/Machine/Dispatch.lean ====
section
/-! DEFINITION. The meaning of each operation, one arm per constructor of `Instr` (30_encoding.md R93). -/

namespace Sys2Proof.Machine

def exec (i : Instr) (s : State) : Host.Outcome State Fault Refusal :=
  match i with
  | .xfer d b => Sys2Proof.Machine.execXfer d b s
  | .waitrdy => Sys2Proof.Machine.execWaitrdy s
  | .pin role b => Sys2Proof.Machine.execPin role b s
  | .dir d => Sys2Proof.Machine.execDir d s
  | .delay t => Sys2Proof.Machine.execDelay t s
  | .sample => Sys2Proof.Machine.execSample s
  | .poll => Sys2Proof.Machine.execPoll s
  | .set assigns => Sys2Proof.Machine.execSet assigns s
  | .enter => Sys2Proof.Machine.execEnter s
  | .exit => Sys2Proof.Machine.execExit s
  | .rdsb idx => Sys2Proof.Machine.execRdsb idx s
  | .rdsig => Sys2Proof.Machine.execRdsig s
  | .classify sig => Sys2Proof.Machine.execClassify sig s
  | .rdfL => Sys2Proof.Machine.execRdfL s
  | .rdfH => Sys2Proof.Machine.execRdfH s
  | .rdfE => Sys2Proof.Machine.execRdfE s
  | .rdlk => Sys2Proof.Machine.execRdlk s
  | .wrfL v => Sys2Proof.Machine.execWrfL v s
  | .wrfH v => Sys2Proof.Machine.execWrfH v s
  | .wrfE v => Sys2Proof.Machine.execWrfE v s
  | .erase => Sys2Proof.Machine.execErase s
  | .session a => Sys2Proof.Machine.execSession a s

end Sys2Proof.Machine
end

