-- ==== Sys2Proof/Machine/Uprog.lean ====
section
/-! DEFINITION. The micro-operation lists (40_link.md R126, 41_power.md R141 and R144, 30_encoding.md R98,
45_session.md R224): what each phase of a session executes, one micro-operation at a time. Log 12 says where the
lists number micro-operations differently from R126. DESIGN CHOICE (log 37): each `x <- v` that 45_session.md R222
writes inside a phase is one `SET` of one register, in its order. -/

namespace Sys2Proof.Machine

/-- A `SET` of one register. -/
def setOne (r : Reg) (e : Expr) : Instr := .set [⟨r, e⟩]

/-- The bits of a constant, as an expression. -/
def litBits {w : Nat} (b : BitVec w) : Expr := .num b.toNat

/-- WAITRDY: the wait begins, then POLL repeated until it takes an exit (40_link.md R115, R124). -/
def expandWait : List Instr := [setOne .wstart (.atom .now), .poll]

/-- The five primitives of the shift step of bit `j` (40_link.md R113), after `bidx <- j` (R110; log 12). DEDUCED
(log 12): the bit `dout[j]` that R126 gives PIN is the bit of `F(d)` fixed at phase entry (10_state.md R31,
45_session.md R224, and R120's operand is a bit), which is what `dout` holds at that step; so a step reads neither
`dout` nor `iout`. -/
def expandShift (dataFrame instrFrame : Frame) (j : BitIdx) : List Instr :=
  [setOne .bidx (.num j.val), .pin .sdi (dataFrame.getLsbD j), .pin .sii (instrFrame.getLsbD j), .sample,
   .pin .sci true, .pin .sci false]

/-- The micro-operations of `XFER d, i` (40_link.md R126). -/
def expandXfer (w : Widths) (d i : Byte) : List Instr :=
  [.set [⟨.dout, .un .frame (litBits d)⟩, ⟨.iout, .un .frame (litBits i)⟩], setOne .acc (.num 0)]
    ++ expandWait
    ++ (frameBitOrder w).flatMap (expandShift (frameOf w d) (frameOf w i))
    ++ [setOne .rbyte (.un (.trunc w.dataBits) (.un (.shr w.padTrail) (.reg .acc)))]

/-- The micro-operations of a sequence of frame pairs (30_encoding.md R86). -/
def expandPairs (w : Widths) (ps : List FramePair) : List Instr := ps.flatMap fun p => expandXfer w p.sdi p.sii

/-- The micro-operations of ENTER (41_power.md R141). -/
def expandEnter : List Instr :=
  [.pin .sdi false, .pin .sii false, .pin .sdoOut false, .dir .output, .pin .rst true, .pin .vcc true,
   .delay .vccSettle, .pin .rst false, .delay .hvSettle, .dir .input, .delay .pmStable]

/-- The micro-operations of EXIT (41_power.md R144). -/
def expandExit : List Instr := [.pin .sci false, .pin .vcc false, .pin .rst true]

/-- `SET sig <- trunc_16((sig << 8) + rbyte)` (30_encoding.md R98, 42_identify.md R161). -/
def expandAccumulate (w : Widths) : Instr :=
  setOne .sig (.un (.trunc w.sigBits) (.bin .add (.un (.shl w.dataBits) (.reg .sig)) (.reg .rbyte)))

/-- The micro-operations of RDSIG (30_encoding.md R98). -/
def expandRdsig (c : Config) : List Instr :=
  [setOne .sig (.num 0)]
    ++ c.sigOrder.flatMap fun idx => expandPairs c.widths (c.rdsbPairs idx) ++ [expandAccumulate c.widths]

/-- The micro-operations of RDLK (43_fuse_lock.md R184). -/
def expandRdlk (c : Config) : List Instr := expandPairs c.widths c.lockPairs ++ expandWait

/-- The micro-operations of ERASE (44_erase.md R210). -/
def expandErase (c : Config) : List Instr := expandPairs c.widths c.erasePairs ++ expandWait

/-- P_IDENT (45_session.md R222): RDSIG, CLASSIFY, and their record in the outcome (log 37). -/
def identList (c : Config) : List Instr :=
  expandRdsig c
    ++ [setOne .desc (.un .classify (.reg .sig)), setOne .oSignature (.reg .sig), setOne .oDevice (.reg .desc)]

/-- A fuse read and its record in the outcome. -/
def readFuseList (c : Config) (x : FuseSel) (r : Reg) : List Instr :=
  expandPairs c.widths (c.readPairs x) ++ [setOne r (.reg .rbyte)]

/-- The fuse reads of a descriptor (45_session.md R226, R230). -/
def readFusesList (c : Config) (d : Descriptor) (l h e : Reg) : List Instr :=
  readFuseList c .low l ++ readFuseList c .high h ++ (if d.efuseDef.isSome then readFuseList c .ext e else [])

/-- The lock decode of the byte just returned, as an expression (10_state.md R35). -/
def lockedExpr : Expr := .un .not (.un (.bit 0) (.reg .rbyte))

/-- P_READ (45_session.md R222, R226): the reads, then a SET for each record of the lock byte (log 37). -/
def readList (c : Config) (d : Descriptor) : List Instr :=
  readFusesList c d .oFuseL0 .oFuseH0 .oFuseE0 ++ expandRdlk c
    ++ [setOne .oLockRaw0 (.reg .rbyte), setOne .oLb1 (.un (.bit 0) (.reg .rbyte)),
        setOne .oLb2 (.un (.bit 1) (.reg .rbyte)), setOne .locked0 lockedExpr, setOne .oLocked0 lockedExpr]

/-- `action = WriteDefaults` as an expression (45_session.md R222). -/
def escalationExpr : Expr := .bin .eq (.reg .action) (.atom (.action .writeDefaults))

/-- P_ERASE (45_session.md R222, R229): ERASE, then a SET for each flag and its record (log 37). -/
def eraseList (c : Config) : List Instr :=
  expandErase c
    ++ [setOne .erased (.num 1), setOne .escalated escalationExpr, setOne .oErased (.num 1),
        setOne .oEscalated (.reg .escalated)]

/-- P_WRITE (45_session.md R222, R228): the writes, then a SET for each flag and record (log 37). -/
def writeList (c : Config) (d : Descriptor) : List Instr :=
  expandPairs c.widths (c.writePairs .low d.lfuseDef) ++ expandPairs c.widths (c.writePairs .high d.hfuseDef)
    ++ (match d.efuseDef with
        | none => []
        | some e => expandPairs c.widths (c.writePairs .ext e))
    ++ [setOne .wrote (.num 1), setOne .oWrote (.num 1), setOne .oWrittenL (litBits d.lfuseDef),
        setOne .oWrittenH (litBits d.hfuseDef)]
    ++ (match d.efuseDef with
        | none => []
        | some e => [setOne .oWrittenE (litBits e)])

/-- P_VERIFY (45_session.md R222, R230): RDLK only after an erase, then a SET for each of its two records (log 37). -/
def verifyList (c : Config) (d : Descriptor) (erased : Bool) : List Instr :=
  readFusesList c d .oFuseL1 .oFuseH1 .oFuseE1
    ++ (if erased then expandRdlk c ++ [setOne .oLockRaw1 (.reg .rbyte), setOne .oLocked1 lockedExpr] else [])

/-- P_EXIT: EXIT, publish (45_session.md R222, R223). -/
def exitList : List Instr := expandExit ++ [setOne .oValid (.num 1)]

/-- The micro-operations of a phase whose descriptor is `d` (45_session.md R223, R224). -/
def phaseList (p : Phase) (c : Config) (d : Descriptor) (erased : Bool) : List Instr :=
  match p with
  | .idle | .pUnknown => []
  | .pEnter => expandEnter
  | .pIdent => identList c
  | .pRead => readList c d
  | .pErase => eraseList c
  | .pWrite => writeList c d
  | .pVerify => verifyList c d erased
  | .pExit => exitList

/-- `uprog(phase, S)` (10_state.md R31, 45_session.md R224). It depends only on registers that the phase does not
write, so it is the same list at every step of the phase. -/
def uprog (p : Phase) (s : State) : List Instr := phaseList p s.cfg s.row s.sess.erased

/-- The registers that a phase's list depends on (45_session.md R224). -/
def phaseReads : Phase → List Reg
  | .idle | .pEnter | .pIdent | .pUnknown | .pErase | .pExit => []
  | .pRead | .pWrite => [.desc]
  | .pVerify => [.desc, .erased]

/-- The registers that a phase's exit transition reads (45_session.md R223). -/
def exitReads : Phase → List Reg
  | .idle | .pEnter | .pUnknown | .pWrite | .pVerify | .pExit => []
  | .pIdent => [.desc]
  | .pRead => [.action, .locked0]
  | .pErase => [.action]

/-- The next phase, once the list is finished (45_session.md R223, R227). -/
def nextPhase (s : State) : Phase → Phase
  | .idle => .idle
  | .pEnter => .pIdent
  | .pIdent => if s.ident.desc = none then .pUnknown else .pRead
  | .pUnknown => .pExit
  | .pRead =>
    if s.sess.action = .readOnly then .pExit
    else if s.sess.action = .erase || s.sess.locked0 then .pErase else .pWrite
  | .pErase => if s.sess.action = .writeDefaults then .pWrite else .pVerify
  | .pWrite => .pVerify
  | .pVerify => .pExit
  | .pExit => .idle

end Sys2Proof.Machine
end

