-- ==== Sys2Proof/Machine/Sequencer.lean ====
section
/-! DEFINITION. The sequencer: what one step of the engine does (10_state.md R31, R32; 45_session.md R220 to R224).
In a session a step is one micro-operation, or the exit transition of a phase; in IDLE it starts a session, runs an
operation the harness has issued (log 10), or waits. -/

namespace Sys2Proof.Machine

/-- A trigger acts in the step that sees it or not at all (45_session.md R220; log 25). -/
def dropTrigger (s : State) : State := { s with host := { s.host with trigger := false } }

/-- Whether the micro-operation that has just run is complete: a POLL is only when it ended the wait
(10_state.md R31, 40_link.md R124). -/
def microEnds (i : Instr) (s : State) : Bool := if i = .poll then pollEnds s else true

/-- `upc` advances by one when a micro-operation completes (10_state.md R31). -/
def advance (done : Bool) (s : State) : State :=
  { s with pc := { s.pc with upc := if done then s.pc.upc + 1 else s.pc.upc } }

/-- Run one micro-operation of a phase. -/
def runMicro (i : Instr) (s : State) : Result :=
  match exec i s with
  | .next t => .next (advance (microEnds i s) t)
  | .fault r => .fault r
  | .refused r => .refused r

/-- The exit transition of a phase (45_session.md R223). -/
def leavePhase (p : Phase) (s : State) : State := { s with pc := { phase := nextPhase s p, upc := 0 } }

/-- One step inside a session (10_state.md R31, 45_session.md R223, R224): it reads what the phase's list depends on,
and at the end of the list what the exit transition depends on. -/
def stepPhase (p : Phase) (s : State) : Result :=
  match (uprog p s)[s.pc.upc]? with
  | some i => runMicro i (noteReads (phaseReads p) s)
  | none => .next (leavePhase p (noteReads (phaseReads p ++ exitReads p) s))

/-- The session that an accepted trigger starts (45_session.md R220, R221). -/
def beginSession (s : State) : State :=
  { startSession s.host.action s with pc := { phase := .pEnter, upc := 0 } }

/-- IDLE polls for a trigger (60_exceptions.md R276); a drawn time passes (log 16). -/
def idlePoll (s : State) : State := elapse 0 s

/-- The operation an issue stands for (log 10). -/
def fetchIssue (c : Config) : Issue → Except DecodeError Instr
  | .words ps => decodePairs c ps
  | .op i => .ok i

/-- Run an operation that the harness issued. -/
def runIssue (w : Issue) (s : State) : Result :=
  match fetchIssue s.cfg w with
  | .ok i => exec i s
  | .error e => .refused (.undecodable e)

/-- One step in IDLE: `triggered` says whether a trigger was pending. -/
def stepIdle (triggered : Bool) (s : State) : Result :=
  if triggered then .next (beginSession s)
  else
    match s.issue with
    | [] => .next (idlePoll s)
    | w :: rest => runIssue w { s with issue := rest }

/-- One step of the engine. -/
def stepEngine (s : State) : Result :=
  whenConfigured s <|
    match s.pc.phase with
    | .idle => stepIdle s.host.trigger (dropTrigger s)
    | .pEnter => stepPhase .pEnter (dropTrigger s)
    | .pIdent => stepPhase .pIdent (dropTrigger s)
    | .pUnknown => stepPhase .pUnknown (dropTrigger s)
    | .pRead => stepPhase .pRead (dropTrigger s)
    | .pErase => stepPhase .pErase (dropTrigger s)
    | .pWrite => stepPhase .pWrite (dropTrigger s)
    | .pVerify => stepPhase .pVerify (dropTrigger s)
    | .pExit => stepPhase .pExit (dropTrigger s)

/-- The engine in IDLE about to run one list of frame pairs (log 10): nothing else is pending. -/
def issueWords (ps : List FramePair) (s : State) : State :=
  { s with
    pc := { phase := .idle, upc := 0 }
    host := { s.host with trigger := false }
    issue := [.words ps] }

end Sys2Proof.Machine
end

