-- ==== Sys2Proof/Machine/Step.lean ====
section
/-! DEFINITION. One step of the machine, and how the host places one encoded operation before it. -/

namespace Sys2Proof.Machine

/-- One step of the engine (10_state.md R31; 45_session.md R220 to R224). -/
def step (s : State) : Host.Outcome State Fault Refusal := stepEngine s

/-- The state in which the next step runs the operation of an opcode-table number (log 10, log 11). -/
def State.withFetchWord (s : State) (nbits w : Nat) : State :=
  issueWords (pairsOfNumber (pairWords nbits) w) s

end Sys2Proof.Machine
end

