-- ==== Sys2Proof/Safety.lean ====
section
/-! DEFINITION. The terms in which claims about the engine are written: what an operation put on the lines (read back
from the trace), what a link operation may touch, what a session keeps true at every step, and when a session has
ended (60_exceptions.md R278). -/

namespace Sys2Proof.Machine

/-! ## What an operation put on the lines -/

/-- The events appended to the trace between two states (10_state.md R39). -/
def newEvents (s t : State) : List Event := t.trace.drop s.trace.length

/-- The kinds of the events appended to the trace between two states (10_state.md R39). -/
def newKinds (s t : State) : List EventKind := (newEvents s t).map (·.kind)

/-- The accumulator after a list of samples, the first one taken first (10_state.md R25, 40_link.md R113). -/
def accOfSamples (smp : List Bool) : Frame := smp.foldl shiftIn 0

/-- The events of the shift of one frame pair, with the samples the target answered (40_link.md R113). -/
def shiftKinds (w : Widths) (p : FramePair) (smp : List Bool) : List EventKind :=
  ((frameBitOrder w).zip smp).flatMap fun x =>
    [.level .sdi ((frameOf w p.sdi).getLsbD x.1), .level .sii ((frameOf w p.sii).getLsbD x.1), .sample x.2,
     .level .sci true, .level .sci false]

/-- The samples of one readiness wait (40_link.md R115): at least one, and only the last one may be high. -/
abbrev waitSamples (polls : List Bool) : Prop := polls ≠ [] ∧ ∀ b ∈ polls.dropLast, b = false

/-- The most polls of one wait, `⌈T_READY_TIMEOUT / T_POLL_MIN⌉ + 1` (40_link.md R115; log 13). -/
def mostPolls (tm : Timing) : Nat := (tm.readyTimeout + tm.pollMin - 1) / tm.pollMin + 1

/-- The events of one readiness wait from the time `begun` to the time `ended` (40_link.md R115): samples at least
`T_POLL_MIN` apart, the first one at once, each one but the last low and before the deadline; and a last one that is
low ends the wait only at or past the deadline. -/
def IsWait (tm : Timing) (begun : Nat) (evs : List Event) (ended : Nat) : Prop :=
  ∃ polls, waitSamples polls ∧ evs.map (·.kind) = polls.map .sample ∧ polls.length ≤ mostPolls tm ∧
    (evs.map (·.time)).head? = some begun ∧ (evs.map (·.time)).Pairwise (fun a b => a + tm.pollMin ≤ b) ∧
    (∀ e ∈ evs.dropLast, e.time < begun + tm.readyTimeout) ∧ (∀ e ∈ evs, e.time ≤ ended) ∧
    (polls.getLast? = some false → begun + tm.readyTimeout ≤ ended)

/-- The events of the transfer of the frame pair `p`, which returned the byte `b` (40_link.md R110, R126): a wait,
then the shift of the bits of a frame. -/
def IsTransfer (c : Config) (p : FramePair) (b : Byte) (begun : Nat) (evs : List Event) (ended : Nat) : Prop :=
  ∃ wait shift smp ready, evs = wait ++ shift ∧ IsWait c.timing begun wait ready ∧
    smp.length = c.widths.frameBits ∧ shift.map (·.kind) = shiftKinds c.widths p smp ∧ (∀ e ∈ shift, ready ≤ e.time ∧ e.time ≤ ended) ∧ ready ≤ ended ∧
    b = returnedByte c.widths (accOfSamples smp)

/-- What the link is asked to do: to send a frame pair, or to wait (40_link.md R117). -/
inductive LinkOp where
  | send (p : FramePair)
  | wait
  deriving DecidableEq, Repr

/-- The events of some requests of the link, one after the other with no time between them, whose transfers returned the
bytes `bs`. -/
def IsLinkRun (c : Config) : List LinkOp → List Byte → Nat → List Event → Nat → Prop
  | [], [], begun, evs, ended => evs = [] ∧ begun = ended
  | .send p :: ops, b :: bs, begun, evs, ended => ∃ e1 e2 mid, evs = e1 ++ e2 ∧
      IsTransfer c p b begun e1 mid ∧ IsLinkRun c ops bs mid e2 ended
  | .wait :: ops, bs, begun, evs, ended => ∃ e1 e2 mid, evs = e1 ++ e2 ∧
      IsWait c.timing begun e1 mid ∧ IsLinkRun c ops bs mid e2 ended
  | [], _ :: _, _, _, _ => False
  | .send _ :: _, [], _, _, _ => False

/-- A sequence of frame pairs, as requests of the link (30_encoding.md R86). -/
def sends (ps : List FramePair) : List LinkOp := ps.map .send

/-- How many frame pairs some requests send. -/
def sendCount (ops : List LinkOp) : Nat := ops.countP fun o => o != .wait

/-- The rising clock edges among some events. -/
def clockRises (ks : List EventKind) : Nat := (ks.filter fun k => k = .level .sci true).length

/-! ## Frames of operations -/

/-- The registers of the link and of its timer (10_state.md R24 to R28). -/
def linkRegs : List Reg := [.dout, .iout, .acc, .bidx, .rbyte, .wstart, .wres]

/-- What no operation of the link touches (40_link.md R126, R127): the configuration, the other lines and the
direction, the identifier, the pc, the session, the outcome, the host's inputs and the harness; and whatever it does,
time does not go back and the trace only grows (10_state.md R38, R39). -/
structure LinkStep (s t : State) : Prop where
  cfg : t.cfg = s.cfg
  sdoDir : t.sdoDir = s.sdoDir
  rst : t.pins.rst = s.pins.rst
  vcc : t.pins.vcc = s.pins.vcc
  sdoOut : t.pins.sdoOut = s.pins.sdoOut
  ident : t.ident = s.ident
  pc : t.pc = s.pc
  sess : t.sess = s.sess
  outcome : t.outcome = s.outcome
  host : t.host = s.host
  issue : t.issue = s.issue
  now : s.now ≤ t.now
  trace : s.trace <+: t.trace
  unwritten : ∀ r, r ∉ linkRegs → (r ∈ t.unwritten ↔ r ∈ s.unwritten)
  unwrittenShrinks : ∀ r, r ∈ t.unwritten → r ∈ s.unwritten
  readUnwritten : t.readUnwritten = s.readUnwritten

/-- The clock and the two data lines are low, as between two transfers (40_link.md R127). -/
def linkLinesLow (s : State) : Prop := s.pins.sci = false ∧ s.pins.sdi = false ∧ s.pins.sii = false

/-- The same registers, lines and interface, whatever happened to time, trace and environment: what a
micro-operation that writes no register leaves alone. -/
structure SameRegisters (s t : State) : Prop where
  cfg : t.cfg = s.cfg
  link : t.link = s.link
  wait : t.wait = s.wait
  ident : t.ident = s.ident
  pc : t.pc = s.pc
  sess : t.sess = s.sess
  outcome : t.outcome = s.outcome
  unwritten : t.unwritten = s.unwritten
  readUnwritten : t.readUnwritten = s.readUnwritten
  host : t.host = s.host
  issue : t.issue = s.issue

/-! ## What a session sends -/

/-- RDLK: three frame pairs, then a wait (43_fuse_lock.md R184). -/
def lockReadLink (c : Config) : List LinkOp := sends c.lockPairs ++ [.wait]

/-- The fuse reads of a descriptor: LFUSE, HFUSE, then EFUSE only where it has one (45_session.md R226, R230). -/
def fuseReadsLink (c : Config) (d : Descriptor) : List LinkOp :=
  sends (c.readPairs .low) ++ sends (c.readPairs .high)
    ++ (if d.efuseDef.isSome then sends (c.readPairs .ext) else [])

/-- ERASE: three frame pairs, then the completion wait (44_erase.md R210). -/
def eraseLink (c : Config) : List LinkOp := sends c.erasePairs ++ [.wait]

/-- The default writes: LFUSE, HFUSE, then EFUSE if present (45_session.md R228). -/
def writesLink (c : Config) (d : Descriptor) : List LinkOp :=
  sends (c.writePairs .low d.lfuseDef) ++ sends (c.writePairs .high d.hfuseDef)
    ++ (match d.efuseDef with
        | none => []
        | some e => sends (c.writePairs .ext e))

/-- What a session asks of the link in P_IDENT, P_READ, P_ERASE, P_WRITE and P_VERIFY, on the path of a device, an
action and whether it erases (45_session.md R222, R223). -/
def sessionLinks (c : Config) (d : Option Descriptor) (a : Action) (erases : Bool) : List (List LinkOp) :=
  match d with
  | none => [sends c.rdsigPairs, [], [], [], []]
  | some d =>
    [sends c.rdsigPairs, fuseReadsLink c d ++ lockReadLink c, if erases then eraseLink c else [],
     if a = .writeDefaults then writesLink c d else [],
     if a = .readOnly then [] else fuseReadsLink c d ++ if erases then lockReadLink c else []]

/-- The events of ENTER (41_power.md R141). -/
def enterKinds : List EventKind :=
  [.level .sdi false, .level .sii false, .level .sdoOut false, .dir .output, .level .rst true, .level .vcc true,
   .level .rst false, .dir .input]

/-- The events of EXIT (41_power.md R144). -/
def exitKinds : List EventKind := [.level .sci false, .level .vcc false, .level .rst true]

/-- The events of a session that ran `links`, phase by phase, and was given the bytes `bytes` of each phase: ENTER,
the requests in order, EXIT (45_session.md R222). -/
def IsSession (c : Config) (links : List (List LinkOp)) (bytes : List (List Byte)) (evs : List Event) : Prop :=
  ∃ entry run quit begun ended, evs = entry ++ run ++ quit ∧ entry.map (·.kind) = enterKinds ∧
    quit.map (·.kind) = exitKinds ∧ (∀ e ∈ entry, e.time ≤ begun) ∧ (∀ e ∈ quit, ended ≤ e.time) ∧
    bytes.map (·.length) = links.map sendCount ∧ IsLinkRun c links.flatten bytes.flatten begun run ended

/-! ## What a session keeps true -/

/-- The latches as ENTER leaves them (41_power.md R143). -/
def Lines.powered : Lines :=
  { rst := false, vcc := true, sci := false, sii := false, sdi := false, sdoOut := false }

/-- The latches on entry to each phase (41_power.md R143, R145; 40_link.md R127). -/
def entryLines : Phase → Lines
  | .idle | .pEnter => Lines.resting
  | .pIdent | .pUnknown | .pRead | .pErase | .pWrite | .pVerify | .pExit => Lines.powered

/-- The latches after some micro-operations. -/
def linesAfter (l : Lines) (ops : List Instr) : Lines :=
  ops.foldl (fun l i => match i with | .pin r b => l.set b r | _ => l) l

/-- The direction of the data-out line after some micro-operations. -/
def dirAfter (d : Dir) (ops : List Instr) : Dir :=
  ops.foldl (fun d i => match i with | .dir e => e | _ => d) d

/-- The registers a micro-operation writes (40_link.md R123, R125). -/
def microWrites : Instr → List Reg
  | .set as => as.map (·.reg)
  | .sample => [.acc]
  | _ => []

/-- The registers still unwritten after some micro-operations. -/
def unwrittenAfter (u : List Reg) (ops : List Instr) : List Reg :=
  ops.foldl (fun u i => u.filter fun r => r ∉ microWrites i) u

/-- The registers that may be unwritten on entry to each phase (70_reset_and_hazards.md R292). -/
def entryUnwritten : Phase → List Reg
  | .idle => resetUnwritten
  | .pEnter | .pIdent => [.dout, .iout, .acc, .bidx, .rbyte, .wstart, .sig, .desc]
  | .pUnknown | .pRead | .pErase | .pWrite | .pVerify | .pExit => []

/-- The micro-operations of the present phase that are complete (10_state.md R31). -/
def doneOps (s : State) : List Instr := (uprog s.pc.phase s).take s.pc.upc

/-- The times of the latch writes of a trace. -/
def pinTimes (tr : List Event) : List Nat := (tr.filter isLevelEvent).map (·.time)

/-- The events are in time order and none is in the future (10_state.md R38, R39), and the latch writes are at least
`T_EDGE_MIN` apart when that is set (40_link.md R119). -/
abbrev TraceOk (s : State) : Prop :=
  (s.trace.map (·.time)).Pairwise (· ≤ ·) ∧ (∀ e ∈ s.trace, e.time ≤ s.now) ∧
    ∀ d ∈ s.cfg.timing.edgeMin, (pinTimes s.trace).Pairwise (fun a b => a + d ≤ b)

/-- The lines are what the completed micro-operations of the phase made of them (10_state.md R21, R22). -/
abbrev LinesOk (s : State) : Prop :=
  s.pins = linesAfter (entryLines s.pc.phase) (doneOps s) ∧ s.sdoDir = dirAfter .input (doneOps s)

/-- Every register the rest of the phase reads before writing it has been written, and no read before a first write is
recorded (70_reset_and_hazards.md R292, 60_exceptions.md R263). -/
abbrev WrittenOk (s : State) : Prop :=
  (∀ r ∈ s.unwritten, r ∈ unwrittenAfter (entryUnwritten s.pc.phase) (doneOps s)) ∧ s.readUnwritten = false

/-- The pc is a position of the phase's list (10_state.md R31), `desc` is unknown or names a row (R30), and the phases
that work on a row of `DESC` have one (45_session.md R222, R223). -/
abbrev PcOk (s : State) : Prop :=
  s.pc.upc ≤ (uprog s.pc.phase s).length ∧ (∀ k ∈ s.ident.desc, k < s.cfg.nDesc) ∧
    (s.pc.phase ∈ [Phase.pRead, .pErase, .pWrite, .pVerify] → s.ident.desc ≠ none)

/-- The outcome is published only in IDLE, or as the last act of P_EXIT (10_state.md R37). -/
abbrev ValidOk (s : State) : Prop :=
  s.outcome.valid = true → s.pc.phase = .idle ∨ (s.pc.phase = .pExit ∧ s.pc.upc = exitList.length)

/-- What holds at every step of an engine that runs sessions only (no operation of the harness is pending). -/
abbrev SessionInv (s : State) : Prop :=
  configOk s.cfg = true ∧ s.issue = [] ∧ PcOk s ∧ LinesOk s ∧ WrittenOk s ∧ ValidOk s ∧ TraceOk s

/-- A session has ended: in IDLE, with `outcome.valid = 1` and no fault recorded (60_exceptions.md R278, R263). -/
abbrev sessionEnded (s : State) : Prop :=
  s.pc.phase = .idle ∧ s.outcome.valid = true ∧ s.readUnwritten = false

/-- The state without the hidden outcome of the last wait (10_state.md R28, R44). -/
def hideWres (s : State) : State := { s with wait := { s.wait with wres := .none } }

/-- An answer whose next state is seen through `f`. -/
def mapNext (f : State → State) : Result → Result
  | .next t => .next (f t)
  | .fault r => .fault r
  | .refused r => .refused r

end Sys2Proof.Machine
end

