-- ==== Sys2Proof/Certificates/Slice0/Obligations.lean ====
section
/-! DEFINITION. The statements for the provers. Each one says in its docstring which rule of spec/ it formalises. A
statement about an operation that completes has as its conclusion that exec answers a next state; the engine has no
memory (20_memory.md R60), so a frame speaks of registers, lines, time, trace and the interface. -/

open Sys2Proof Sys2Proof.Machine

/-! ## Reset, configuration and host -/

/-- 10_state.md R45, 70_reset_and_hazards.md R290: the values that the spec gives for reset, and which registers hold
none of the spec's values yet; no fault is recorded (60_exceptions.md R263, log 30). -/
def Obligations.ResetHoldsStatedValues : Prop :=
  State.reset.pins = { rst := true, vcc := false, sci := false, sii := false, sdi := false, sdoOut := false } ∧
  State.reset.sdoDir = .input ∧ State.reset.wait.wres = .none ∧ State.reset.pc = { phase := .idle, upc := 0 } ∧
  State.reset.outcome.valid = false ∧ State.reset.now = 0 ∧ State.reset.trace = [] ∧
  State.reset.readUnwritten = false ∧ ∀ r, r ∈ State.reset.unwritten ↔ r ≠ .wres ∧ r ≠ .oValid

/-- 60_exceptions.md R265, 30_encoding.md R88, R92: exactly these configurations are refused. That frames 3 and 4 of a
write must have `PAD_DATA` on SDI is the model's reading of 43_fuse_lock.md R185 and 30_encoding.md R89 (log 27); that
widths other than those of 00_scope.md R11, or pads that do not fill the frame, are refused is the model's choice
(log 31); that any two `SIG_INDICES` are accepted is the model's choice (log 38). -/
def Obligations.BadConfigConditions : Prop :=
  ∀ c : Config, configOk c = false ↔
    (¬ (c.widths.frameBits = 11 ∧ c.widths.dataBits = 8 ∧ c.widths.sigBits = 16 ∧ 0 < c.widths.padLead ∧
      0 < c.widths.padTrail ∧ c.widths.padLead + 8 + c.widths.padTrail = 11)) ∨
    (¬ [c.pinmap.rst, c.pinmap.vcc, c.pinmap.sci, c.pinmap.sii, c.pinmap.sdi, c.pinmap.sdo].Nodup) ∨
    (∃ (j k : Nat) (d e : Descriptor), j ≠ k ∧ c.desc[j]? = some d ∧ c.desc[k]? = some e ∧ d.signature = e.signature) ∨
    (∃ d ∈ c.desc, (d.family = .fam2 ∧ d.efuseDef ≠ none) ∨ (d.family = .fam3 ∧ d.efuseDef = none)) ∨
    (∃ es ∈ [c.cmd.rdL, c.cmd.rdH, c.cmd.rdE, c.cmd.rdLk, c.cmd.erase],
      es.length ≠ 3 ∨ ∃ e ∈ es, e.sdi = .operand) ∨
    (∃ es ∈ [c.cmd.rdsb, c.cmd.wrL, c.cmd.wrH, c.cmd.wrE],
      es.length ≠ 4 ∨ ∃ (n : Nat) (e : CmdEntry), es[n]? = some e ∧ ¬ (e.sdi = .operand ↔ n = 1)) ∨
    (¬ [c.fuseAddr.low, c.fuseAddr.high, c.fuseAddr.ext].Nodup) ∨
    (∃ x : FuseSel,
      ((c.cmd.write x).map (·.pair c.padData 0))[2]? ≠ some ⟨c.padData, (c.fuseAddr.get x).extractLsb' 8 8⟩ ∨
      ((c.cmd.write x).map (·.pair c.padData 0))[3]? ≠ some ⟨c.padData, (c.fuseAddr.get x).extractLsb' 0 8⟩) ∨
    c.timing.pollMin = 0

/-- 60_exceptions.md R265: from a configuration that is not valid nothing runs, neither a step nor an operation. -/
def Obligations.BadConfigRefusesEverything : Prop :=
  ∀ (s : State), configOk s.cfg = false →
    step s = .refused .badConfig ∧ ∀ i, exec i s = .refused .badConfig

/-- 10_state.md R40, R42: no operation and no step writes the configuration. -/
def Obligations.ConfigurationIsNeverWritten : Prop :=
  ∀ (s t : State), (step s = .next t → t.cfg = s.cfg) ∧ ∀ i, exec i s = .next t → t.cfg = s.cfg

/-- 10_state.md R38, R39: time never goes back, and the trace is only ever extended. -/
def Obligations.TimeAndTraceOnlyGrow : Prop :=
  ∀ (s t : State), (step s = .next t → s.now ≤ t.now ∧ s.trace <+: t.trace) ∧
    ∀ i, exec i s = .next t → s.now ≤ t.now ∧ s.trace <+: t.trace

/-- 60_exceptions.md R266: a host read of the outcome while it is not valid is refused. -/
def Obligations.OutcomeReadRefusedWhileNotValid : Prop :=
  ∀ s : State, s.outcome.valid = false → hostReadOutcome s = .refused .outcomeNotValid

/-- 10_state.md R37, 60_exceptions.md R277: a session that has ended gives the host its outcome, and the read changes
nothing. Nothing is assumed of the outcome's fields before the session. -/
def Obligations.HostReadsFinishedSession : Prop :=
  ∀ (a : Option Action) (s : State), configOk s.cfg = true → s.pc.phase = .idle →
    ∃ t, exec (.session a) s = .next t ∧ hostReadOutcome t = .next (t.outcome, t)

/-! ## Encoding -/

/-- 30_encoding.md R86, R87, R90: under every valid configuration the encoding of an operation decodes, to an operation
with that same encoding; with the default tables, decoding the encoding of any operation that has one gives the
operation back, for every operand. -/
def Obligations.DecodeOfEncode : Prop :=
  ∀ (c : Config) (i : Instr) (ps : List FramePair), configOk c = true → encode c i = some ps →
    (∃ j, decodePairs c ps = .ok j ∧ encode c j = some ps) ∧ (c = Config.default → decodePairs c ps = .ok i)

/-- 30_encoding.md R87: under every valid configuration a list of frame pairs that decodes is the encoding of what it
decodes to. -/
def Obligations.EncodeOfDecode : Prop :=
  ∀ (c : Config) (i : Instr) (ps : List FramePair), configOk c = true → decodePairs c ps = .ok i →
    encode c i = some ps

/-- 30_encoding.md R86, R96: a list of frame pairs of any other length than 1, 3, 4 or 8 is refused, whatever the
configuration. -/
def Obligations.OtherLengthsAreRefused : Prop :=
  ∀ (c : Config) (ps : List FramePair), ps.length ∉ [1, 3, 4, 8] → ∃ e, decodePairs c ps = .error e

/-- 30_encoding.md R89, R92: from a valid configuration the frame pairs of every operation are those of `CMD` with the
operand filled in; a fuse write's last two are the ones that its Fuse Address gives. -/
def Obligations.OperationsSendPairsOfCmd : Prop :=
  ∀ (c : Config) (x : FuseSel) (v : Byte), configOk c = true →
    c.writePairs x v = (c.cmd.write x).map (CmdEntry.pair c.padData v) ∧
    c.readPairs x = (c.cmd.read x).map (CmdEntry.pair c.padData v) ∧
    c.lockPairs = c.cmd.rdLk.map (CmdEntry.pair c.padData v) ∧
    c.erasePairs = c.cmd.erase.map (CmdEntry.pair c.padData v) ∧
    c.rdsbPairs v = c.cmd.rdsb.map (CmdEntry.pair c.padData v) ∧
    c.rdsigPairs = c.rdsbPairs c.sigIndices.first ++ c.rdsbPairs c.sigIndices.second

/-- 30_encoding.md R94, R95: the micro-operations and the operations without frames have no encoding. -/
def Obligations.UnencodedOperations : Prop :=
  ∀ c : Config,
    encode c .waitrdy = none ∧ (∀ r b, encode c (.pin r b) = none) ∧ (∀ d, encode c (.dir d) = none) ∧
    (∀ t, encode c (.delay t) = none) ∧ encode c .sample = none ∧ encode c .poll = none ∧
    (∀ as, encode c (.set as) = none) ∧ encode c .enter = none ∧ encode c .exit = none ∧
    (∀ v, encode c (.classify v) = none) ∧ ∀ a, encode c (.session a) = none

/-- spec/opcode_table.json, 30_encoding.md R90: a few words of the table decode to the operation they stand for. -/
def Obligations.TableWordsDecode : Prop :=
  decodeTableWord 16 0x044C = some (.xfer 0x04 0x4C) ∧
  decodeTableWord 64 0x084C010C0068006C = some (.rdsb 1) ∧
  decodeTableWord 128 0x084C010C0068006C084C020C0068006C = some .rdsig ∧
  decodeTableWord 48 0x044C0068006C = some .rdfL ∧
  decodeTableWord 48 0x044C0078007C = some .rdlk ∧
  decodeTableWord 64 0x404CDF2C0074007C = some (.wrfH 0xDF) ∧
  decodeTableWord 48 0x804C0064006C = some .erase

/-- 30_encoding.md R80: the frame of a byte, with the pads of 00_scope.md R10. -/
def Obligations.FrameOfByte : Prop :=
  ∀ b : Byte,
    frameOf Widths.default b = BitVec.zeroExtend 11 b <<< 2 ∧ (frameOf Widths.default b).getLsbD 10 = false ∧
      (frameOf Widths.default b).extractLsb' 2 8 = b ∧ (frameOf Widths.default b).extractLsb' 0 2 = 0

/-- 30_encoding.md R80 with any pads of a valid configuration (pads other than the default: the model's choice, log 31):
the byte stands above `PAD_TRAIL` low bits and below `PAD_LEAD` low bits, and the shift goes from the first to the
last of them. -/
def Obligations.PadsFillTheFrame : Prop :=
  ∀ (c : Config) (b : Byte), configOk c = true →
    (∀ k < c.widths.padLead, (frameOf c.widths b).getLsbD (10 - k) = false) ∧
    (frameOf c.widths b).extractLsb' c.widths.padTrail 8 = b ∧
    (∀ k < c.widths.padTrail, (frameOf c.widths b).getLsbD k = false) ∧
    (frameBitOrder c.widths).map (·.val) = [10, 9, 8, 7, 6, 5, 4, 3, 2, 1, 0]

/-- 40_link.md R114: byte bit `7 - m` is the sample `s_(m+1)` of the transfer: the `PAD_LEAD` samples before it are
discarded, one with the default pads (pads other than the default: the model's choice, log 31). -/
def Obligations.ReturnedByteOfSamples : Prop :=
  ∀ (c : Config) (smp : List Bool), configOk c = true → smp.length = 11 → ∀ m < 8,
    some ((returnedByte c.widths (accOfSamples smp)).getLsbD (7 - m)) = smp[m + c.widths.padLead]?

/-! ## The micro-operations -/

/-- 00_scope.md R8, R14, 40_link.md R123: every sample that an operation or a step adds to the trace is the target's
answer at that moment: what `Config.sdoOracle` gives for the trace so far and the time, where the model's script of
answers (log 5) has come to its end. -/
def Obligations.SamplesAreTheTargetsAnswers : Prop :=
  ∀ (s t : State), ((∃ i, exec i s = .next t) ∨ step s = .next t) →
    ∀ (before after : List Event) (e : Event) (b : Bool), t.trace = before ++ e :: after →
      s.trace.length ≤ before.length → e.kind = .sample b →
      b = (s.env.samples[(before.drop s.trace.length).countP isSampleEvent]?).getD
        (Config.sdoOracle before e.time)

/-- 40_link.md R120, R119: PIN writes one latch, appends its event at a time not before `T_EDGE_MIN` after the previous
latch write, and changes nothing else. That the event carries the time at which the latch is written, before the drawn
duration, is the model's reading (log 15, DEDUCED). -/
def Obligations.PinWritesOneLatch : Prop :=
  ∀ (r : Role) (b : Bool) (s : State), configOk s.cfg = true →
    ∃ t at_, exec (.pin r b) s = .next t ∧ t.pins.get r = b ∧ (∀ q, q ≠ r → t.pins.get q = s.pins.get q) ∧
      t.trace = s.trace ++ [⟨at_, .level r b⟩] ∧ s.now ≤ at_ ∧ at_ ≤ t.now ∧
      (s.cfg.timing.edgeMin = none → at_ = s.now) ∧
      (∀ d, s.cfg.timing.edgeMin = some d → ∀ p, (pinTimes s.trace).getLast? = some p → p + d ≤ at_) ∧
      t.sdoDir = s.sdoDir ∧ SameRegisters s t

/-- 40_link.md R121: DIR sets the direction of the data-out line, appends its event, and changes nothing else. That the
event carries the time before the drawn duration is the model's reading (log 15, DEDUCED). -/
def Obligations.DirSetsDirection : Prop :=
  ∀ (d : Dir) (s : State), configOk s.cfg = true →
    ∃ t, exec (.dir d) s = .next t ∧ t.sdoDir = d ∧ t.trace = s.trace ++ [⟨s.now, .dir d⟩] ∧ s.now ≤ t.now ∧
      t.pins = s.pins ∧ SameRegisters s t

/-- 40_link.md R122: DELAY lets at least its parameter pass, and changes nothing else (`T_EDGE_MIN` while it is not set
asks for no time: the model's choice, log 23). -/
def Obligations.DelayWaitsAtLeast : Prop :=
  ∀ (s : State), configOk s.cfg = true → ∀ p : TimeParam, ∃ t, exec (.delay p) s = .next t ∧
    (match p with
      | .readyTimeout => s.now + s.cfg.timing.readyTimeout ≤ t.now
      | .vccSettle => s.now + s.cfg.timing.vccSettle ≤ t.now
      | .hvSettle => s.now + s.cfg.timing.hvSettle ≤ t.now
      | .pmStable => s.now + s.cfg.timing.pmStable ≤ t.now
      | .edgeMin => ∀ d, s.cfg.timing.edgeMin = some d → s.now + d ≤ t.now
      | .pollMin => s.now + s.cfg.timing.pollMin ≤ t.now) ∧
    t.trace = s.trace ∧ s.now ≤ t.now ∧ t.pins = s.pins ∧ t.sdoDir = s.sdoDir ∧ SameRegisters s t

/-- 40_link.md R123: SAMPLE takes the target's answer into the accumulator, and changes nothing else. The answer is what
`Config.sdoOracle` gives (00_scope.md R8); that a scripted answer of `env.samples` comes first and is consumed is the
model's choice (log 5). An `acc` that nothing has written is read as it stands and the fault ReadUnwritten is recorded:
70_reset_and_hazards.md R292 as log 8 models it. -/
def Obligations.SampleShiftsIntoAccumulator : Prop :=
  ∀ s : State, configOk s.cfg = true → s.sdoDir = .input →
    ∃ t b, exec .sample s = .next t ∧ t.trace = s.trace ++ [⟨s.now, .sample b⟩] ∧
      b = s.sdoLevel ∧ (s.env.samples = [] → b = Config.sdoOracle s.trace s.now) ∧
      (∀ h rest, s.env.samples = h :: rest → b = h ∧ t.env.samples = rest) ∧
      t.link = { s.link with acc := (s.link.acc <<< 1) ||| (if b then 1 else 0) } ∧
      t.pins = s.pins ∧ t.wait = s.wait ∧
      (t.readUnwritten = true ↔ s.readUnwritten = true ∨ Reg.acc ∈ s.unwritten) ∧
      (∀ r, r ∈ t.unwritten ↔ r ∈ s.unwritten ∧ r ≠ .acc) ∧
      LinkStep { s with readUnwritten := t.readUnwritten } t

/-- 40_link.md R115, R124: POLL takes the target's answer and then either ends the wait as ready, ends it as expired,
or lets `T_POLL_MIN` pass; it never changes the accumulator. The model's choices: a scripted answer of `env.samples`
comes first and is consumed (log 5); a POLL reads `wstart` only after a low sample, and one that nothing has written is
read as it stands and the fault ReadUnwritten is recorded (log 8); the deadline test uses the time after the sample
(log 14, DEDUCED) and is free where `wstart` lies after it (log 36). -/
def Obligations.PollTakesOneExitOrGoesOn : Prop :=
  ∀ s : State, configOk s.cfg = true → s.sdoDir = .input →
    ∃ t b, exec .poll s = .next t ∧ t.trace = s.trace ++ [⟨s.now, .sample b⟩] ∧
      b = s.sdoLevel ∧ (s.env.samples = [] → b = Config.sdoOracle s.trace s.now) ∧
      (∀ h rest, s.env.samples = h :: rest → b = h ∧ t.env.samples = rest) ∧
      ((b = true ∧ t.wait.wres = .ready) ∨
       (b = false ∧ t.wait.wres = .expired ∧
          (s.wait.wstart ≤ t.now → s.cfg.timing.readyTimeout ≤ t.now - s.wait.wstart)) ∨
       (b = false ∧ t.wait.wres = s.wait.wres ∧ s.now + s.cfg.timing.pollMin ≤ t.now ∧
          (s.wait.wstart ≤ s.now → s.now - s.wait.wstart < s.cfg.timing.readyTimeout))) ∧
      t.wait.wstart = s.wait.wstart ∧ t.link = s.link ∧ t.pins = s.pins ∧
      (t.readUnwritten = true ↔ s.readUnwritten = true ∨ b = false ∧ Reg.wstart ∈ s.unwritten) ∧
      LinkStep { s with readUnwritten := t.readUnwritten } t

/-- 40_link.md R125, R126, with the model's choice of log 21 for what they leave open (which expressions there are, that
all of them are read in the state before the SET, and that a value the register cannot hold is free): a SET that names
no register twice completes, whatever its expressions; every register it names holds the value of its expression
where it can hold it, and else some value of its kind; no other register changes; it takes no time and appends no
event. A register read before its first write is read as it stands and the fault ReadUnwritten is recorded (log 8). -/
def Obligations.SetWritesItsExpressions : Prop :=
  ∀ (as : List Assign) (s : State), configOk s.cfg = true → (as.map Assign.reg).Nodup →
    ∃ t, exec (.set as) s = .next t ∧
      (∀ a j, (a, j) ∈ as.zipIdx → a.reg ∉ t.unwritten ∧ kindAccepts s.cfg.nDesc a.reg.ty (t.readReg a.reg) = true ∧
        (kindAccepts s.cfg.nDesc a.reg.ty (evalExpr s a.expr [0, j]) = true →
          t.readReg a.reg = evalExpr s a.expr [0, j])) ∧
      (∀ r, r ∉ as.map (·.reg) → t.readReg r = s.readReg r ∧ (r ∈ t.unwritten ↔ r ∈ s.unwritten)) ∧
      t.cfg = s.cfg ∧ t.pins = s.pins ∧ t.sdoDir = s.sdoDir ∧ t.pc = s.pc ∧ t.now = s.now ∧ t.trace = s.trace ∧
      t.env = { s.env with opens := t.env.opens } ∧ (setOpen s as = false → t.env = s.env) ∧
      t.host = s.host ∧ t.issue = s.issue ∧
      (t.readUnwritten = true ↔ s.readUnwritten = true ∨ ∃ a ∈ as, ∃ r ∈ exprReads a.expr, r ∈ s.unwritten)

/-- 40_link.md R125: a SET of any form completes, from any state: an expression whose value the spec does not state, a
register named twice (log 21), or a register read before its first write (log 8) does not stop it. -/
def Obligations.EverySetRuns : Prop :=
  ∀ (as : List Assign) (s : State), configOk s.cfg = true →
    ∃ t, exec (.set as) s = .next t ∧ t.now = s.now ∧ t.trace = s.trace ∧
      (∀ r, r ∉ as.map (·.reg) → t.readReg r = s.readReg r) ∧ (∀ r ∈ as.map (·.reg), r ∉ t.unwritten)

/-- 40_link.md R110, R114, R115, 42_identify.md R161, 10_state.md R35: the value of some expressions of the spec's own
rules: the frame as a shift, the accumulated signature, the returned byte, the lock decode, the deadline test. The form
of the expressions is the model's choice (log 21). -/
def Obligations.ExpressionsOfTheRules : Prop :=
  ∀ (s : State) (place : List Nat) (b : Byte) (sum shl : Expr), configOk s.cfg = true →
    shl = .un (.shl 8) (.reg .sig) → sum = .bin .add shl (.reg .rbyte) →
    evalExpr s (.un (.shl s.cfg.widths.padTrail) (.un (.zext 11) (.num b.toNat))) place
      = .num (frameOf s.cfg.widths b).toNat ∧
    evalExpr s (.un .frame (.num b.toNat)) place = .num (frameOf s.cfg.widths b).toNat ∧
    evalExpr s (.un (.trunc 16) sum) place = .num (appendSig s.cfg.widths s.ident.sig s.link.rbyte).toNat ∧
    evalExpr s (.un (.trunc 8) (.un (.shr s.cfg.widths.padTrail) (.reg .acc))) place
      = .num (returnedByte s.cfg.widths s.link.acc).toNat ∧
    evalExpr s (.un .not (.un (.bit 0) (.reg .rbyte))) place = .num (isLocked s.link.rbyte).toNat ∧
    (s.wait.wstart ≤ s.now → evalExpr s (.bin .le (.atom (.timing .readyTimeout))
      (.bin .sub (.atom .now) (.reg .wstart))) place
        = .num (decide (s.cfg.timing.readyTimeout ≤ s.now - s.wait.wstart)).toNat)

/-- 70_reset_and_hazards.md R292, 60_exceptions.md R263: a read of a register before its first write records the fault
ReadUnwritten. What a read is, and that the reader completes with the value the register holds, is the model's: a POLL
reads `wstart` only after a low sample, a SET reads every register its expressions name, those of a branch not taken
included (log 8, DESIGN CHOICE), CLASSIFY without an operand reads `sig` (log 19, DEDUCED), and the host reads every
field of the outcome (log 29, DEDUCED). -/
def Obligations.ReadOfUnwrittenRegisterIsRecorded : Prop :=
  ∀ s : State, configOk s.cfg = true →
    (s.sdoDir = .input → Reg.acc ∈ s.unwritten → ∃ t, exec .sample s = .next t ∧ t.readUnwritten = true) ∧
    (s.sdoDir = .input → Reg.wstart ∈ s.unwritten → s.sdoLevel = false →
      ∃ t, exec .poll s = .next t ∧ t.readUnwritten = true) ∧
    (Reg.sig ∈ s.unwritten → ∃ t, exec (.classify none) s = .next t ∧ t.readUnwritten = true) ∧
    (∀ (as : List Assign) (a : Assign) (r : Reg), a ∈ as → r ∈ exprReads a.expr → r ∈ s.unwritten →
      ∃ t, exec (.set as) s = .next t ∧ t.readUnwritten = true) ∧
    (s.outcome.valid = true → ∀ r ∈ outcomeFields, r ∈ s.unwritten →
      hostReadOutcome s = .next (s.outcome, { s with readUnwritten := true }))

/-- 60_exceptions.md R264: a sample while the engine drives the data-out line is a fault. That an operation which contains
a sample answers with the fault as a whole is the model's choice (logs 18, 22). -/
def Obligations.SamplingWhileOutputFaults : Prop :=
  ∀ s : State, configOk s.cfg = true → s.sdoDir = .output →
    exec .sample s = .fault .sampleWhileOutput ∧ exec .poll s = .fault .sampleWhileOutput ∧
    exec .waitrdy s = .fault .sampleWhileOutput ∧ (∀ d i, exec (.xfer d i) s = .fault .sampleWhileOutput) ∧
    (∀ v, exec (.rdsb v) s = .fault .sampleWhileOutput) ∧ exec .rdsig s = .fault .sampleWhileOutput ∧
    exec .rdfL s = .fault .sampleWhileOutput ∧ exec .rdfH s = .fault .sampleWhileOutput ∧
    exec .rdfE s = .fault .sampleWhileOutput ∧ exec .rdlk s = .fault .sampleWhileOutput ∧
    (∀ v, exec (.wrfL v) s = .fault .sampleWhileOutput) ∧ (∀ v, exec (.wrfH v) s = .fault .sampleWhileOutput) ∧
    (∀ v, exec (.wrfE v) s = .fault .sampleWhileOutput) ∧ exec .erase s = .fault .sampleWhileOutput

/-! ## The link -/

/-- 40_link.md R115, R117, R118: WAITRDY completes with the events of a wait (`IsWait`: low samples, `T_POLL_MIN` apart,
up to the one that ends it; an expired wait lasted at least `T_READY_TIMEOUT`; at most
`⌈T_READY_TIMEOUT / T_POLL_MIN⌉ + 1` samples, log 13); `wres` says how it ended; the accumulator and the lines are
untouched. -/
def Obligations.WaitReadyEndsInBound : Prop :=
  ∀ s : State, configOk s.cfg = true → s.sdoDir = .input →
    ∃ (t : State) (polls : List Bool), exec .waitrdy s = .next t ∧ IsWait s.cfg.timing s.now (newEvents s t) t.now ∧
      newKinds s t = polls.map .sample ∧ polls.length ≤ mostPolls s.cfg.timing ∧
      ((polls.getLast? = some true ∧ t.wait.wres = .ready) ∨
       (polls.getLast? = some false ∧ t.wait.wres = .expired ∧
          s.now + s.cfg.timing.readyTimeout ≤ t.now)) ∧
      t.wait.wstart = s.now ∧ t.link = s.link ∧ t.pins = s.pins ∧ LinkStep s t

/-- 40_link.md R118 as it stands: at most `floor(T_READY_TIMEOUT / T_POLL_MIN) + 1` polls. EXPECTED TO FAIL: R115's
loop takes one more poll where `T_POLL_MIN` does not divide `T_READY_TIMEOUT` (log 13). -/
def Obligations.WaitSamplesWithinFloorBound : Prop :=
  ∀ s t : State, configOk s.cfg = true → exec .waitrdy s = .next t →
    (newKinds s t).length ≤ s.cfg.timing.readyTimeout / s.cfg.timing.pollMin + 1

/-- 40_link.md R110 to R114, R126, R127: XFER completes. It waits, shifts both frames most-significant bit first with
one sample and one clock pulse per bit, returns the data bits of the eleven samples (bits 9..2 with the
default pads; other pads: the model's choice, log 31), and leaves the three lines low. -/
def Obligations.TransferShiftsBothFrames : Prop :=
  ∀ (d i : Byte) (s : State), configOk s.cfg = true → s.sdoDir = .input →
    ∃ t, exec (.xfer d i) s = .next t ∧ IsTransfer s.cfg ⟨d, i⟩ t.link.rbyte s.now (newEvents s t) t.now ∧
      t.link.dout = frameOf s.cfg.widths d ∧ t.link.iout = frameOf s.cfg.widths i ∧
      t.link.rbyte = t.link.acc.extractLsb' s.cfg.widths.padTrail 8 ∧ t.link.bidx = 0 ∧ clockRises (newKinds s t) = 11 ∧ linkLinesLow t ∧
      (∀ r ∈ linkRegs, r ∉ t.unwritten) ∧ LinkStep s t

/-! ## Power -/

/-- 41_power.md R141, R142, R143: ENTER completes with its eight events in the mandated order and at least the minimum
delays between them. -/
def Obligations.EnterKeepsMandatedOrder : Prop :=
  ∀ s : State, configOk s.cfg = true →
    ∃ t t1 t2 t3 t4 t5 t6 t7 t8, exec .enter s = .next t ∧
      t.trace = s.trace ++
        [⟨t1, .level .sdi false⟩, ⟨t2, .level .sii false⟩, ⟨t3, .level .sdoOut false⟩, ⟨t4, .dir .output⟩,
         ⟨t5, .level .rst true⟩, ⟨t6, .level .vcc true⟩, ⟨t7, .level .rst false⟩, ⟨t8, .dir .input⟩] ∧
      s.now ≤ t1 ∧ t1 ≤ t2 ∧ t2 ≤ t3 ∧ t3 ≤ t4 ∧ t4 ≤ t5 ∧ t5 ≤ t6 ∧ t6 + s.cfg.timing.vccSettle ≤ t7 ∧
      t7 + s.cfg.timing.hvSettle ≤ t8 ∧ t8 + s.cfg.timing.pmStable ≤ t.now ∧
      t.pins = { rst := false, vcc := true, sci := s.pins.sci, sii := false, sdi := false, sdoOut := false } ∧
      t.sdoDir = .input ∧ SameRegisters s t

/-- 41_power.md R144: EXIT completes with its three events in order; SDI, SII, SDO_OUT and the direction are not
written. -/
def Obligations.ExitDropsSupplyThenHighVoltage : Prop :=
  ∀ s : State, configOk s.cfg = true →
    ∃ t t1 t2 t3, exec .exit s = .next t ∧
      t.trace = s.trace ++ [⟨t1, .level .sci false⟩, ⟨t2, .level .vcc false⟩, ⟨t3, .level .rst true⟩] ∧
      s.now ≤ t1 ∧ t1 ≤ t2 ∧ t2 ≤ t3 ∧ t3 ≤ t.now ∧
      t.pins = { s.pins with sci := false, vcc := false, rst := true } ∧ t.sdoDir = s.sdoDir ∧ SameRegisters s t

/-! ## Identify -/

/-- 42_identify.md R160: RDSB completes: the four frame pairs of `CMD[RDSB]` with the index on SDI in the second; its
result is the byte the fourth returned. -/
def Obligations.SignatureByteRead : Prop :=
  ∀ (idx : Byte) (s : State), configOk s.cfg = true → s.sdoDir = .input →
    ∃ t b1 b2 b3 b4, exec (.rdsb idx) s = .next t ∧
      IsLinkRun s.cfg (sends (s.cfg.rdsbPairs idx)) [b1, b2, b3, b4] s.now (newEvents s t) t.now ∧
      ((s.cfg.rdsbPairs idx)[1]?).map (·.sdi) = some idx ∧
      t.link.rbyte = b4 ∧ linkLinesLow t ∧ (∀ r ∈ linkRegs, r ∉ t.unwritten) ∧ LinkStep s t

/-- 42_identify.md R161, R162: RDSIG completes: the frame pairs of `RDSB` of the two indices of `SIG_INDICES`; the first
byte read is the high byte of the signature and the second the low byte; `desc` and everything outside the link is untouched. -/
def Obligations.SignatureIsHighThenLow : Prop :=
  ∀ s : State, configOk s.cfg = true → s.sdoDir = .input →
    ∃ t b1 b2 b3 hi b5 b6 b7 lo, exec .rdsig s = .next t ∧
      IsLinkRun s.cfg (sends (s.cfg.rdsbPairs s.cfg.sigIndices.first ++ s.cfg.rdsbPairs s.cfg.sigIndices.second))
        [b1, b2, b3, hi, b5, b6, b7, lo] s.now (newEvents s t) t.now ∧
      t.ident.sig = hi ++ lo ∧ t.ident.desc = s.ident.desc ∧ t.link.rbyte = lo ∧ linkLinesLow t ∧
      (∀ r ∈ Reg.sig :: linkRegs, r ∉ t.unwritten) ∧
      (∀ r, r ∉ Reg.sig :: linkRegs → (r ∈ t.unwritten ↔ r ∈ s.unwritten)) ∧ t.readUnwritten = s.readUnwritten ∧
      t.cfg = s.cfg ∧ t.sdoDir = s.sdoDir ∧ t.pins.rst = s.pins.rst ∧ t.pins.vcc = s.pins.vcc ∧
      t.pins.sdoOut = s.pins.sdoOut ∧ t.pc = s.pc ∧ t.sess = s.sess ∧ t.outcome = s.outcome ∧ t.host = s.host ∧
      t.issue = s.issue ∧ s.now ≤ t.now ∧ s.trace <+: t.trace

/-- 42_identify.md R163, R164: CLASSIFY completes; `desc` becomes the row whose signature matches on all 16 bits, or
unknown where none does; no time passes and no pin is touched. That there is a form without an operand, which
classifies the register `sig`, and that the form with an operand leaves `sig` alone, is the model's reading of
30_encoding.md R97 (log 19, DEDUCED); a `sig` that nothing has written is read as it stands and the fault ReadUnwritten
is recorded (log 8). -/
def Obligations.ClassifyFindsExactMatch : Prop :=
  ∀ (v : Option Signature) (s : State), configOk s.cfg = true →
    ∃ t, exec (.classify v) s = .next t ∧
      (∀ k, t.ident.desc = some k ↔ ∃ d, s.cfg.desc[k]? = some d ∧ d.signature = v.getD s.ident.sig) ∧
      (t.ident.desc = none ↔ ∀ d ∈ s.cfg.desc, d.signature ≠ v.getD s.ident.sig) ∧
      Reg.desc ∉ t.unwritten ∧
      t = { s with ident := { s.ident with desc := t.ident.desc }, unwritten := t.unwritten,
                   readUnwritten := t.readUnwritten } ∧
      (t.readUnwritten = true ↔ s.readUnwritten = true ∨ v = none ∧ Reg.sig ∈ s.unwritten) ∧
      ∀ r, r ≠ .desc → (r ∈ t.unwritten ↔ r ∈ s.unwritten)

/-! ## Fuses, lock byte and erase -/

/-- 43_fuse_lock.md R180 to R183: the three fuse reads complete: the three frame pairs of their selector, from `CMD`
(30_encoding.md R85); the result is the byte the third returned. -/
def Obligations.FuseReadsReturnThirdByte : Prop :=
  ∀ s : State, configOk s.cfg = true → s.sdoDir = .input →
    ∀ op ∈ [(Instr.rdfL, s.cfg.cmd.rdL), (Instr.rdfH, s.cfg.cmd.rdH), (Instr.rdfE, s.cfg.cmd.rdE)],
    ∃ t b1 b2 b3, exec op.1 s = .next t ∧
      IsLinkRun s.cfg (sends (op.2.map (CmdEntry.pair s.cfg.padData 0))) [b1, b2, b3] s.now
        (newEvents s t) t.now ∧ t.link.rbyte = b3 ∧ linkLinesLow t ∧ (∀ r ∈ linkRegs, r ∉ t.unwritten) ∧ LinkStep s t

/-- 43_fuse_lock.md R184: RDLK completes: three frame pairs, then one readiness wait; the raw byte is the one the
third pair returned. -/
def Obligations.LockReadWaitsOnceMore : Prop :=
  ∀ s : State, configOk s.cfg = true → s.sdoDir = .input →
    ∃ t b1 b2 b3, exec .rdlk s = .next t ∧
      IsLinkRun s.cfg (sends (s.cfg.cmd.rdLk.map (CmdEntry.pair s.cfg.padData 0)) ++ [.wait]) [b1, b2, b3]
        s.now (newEvents s t) t.now ∧
      t.link.rbyte = b3 ∧ linkLinesLow t ∧ (∀ r ∈ linkRegs, r ∉ t.unwritten) ∧ LinkStep s t

/-- 10_state.md R35: the lock decode. -/
def Obligations.LockDecodeIsBitZero : Prop :=
  ∀ lb : Byte, lockBit1 lb = lb.getLsbD 0 ∧ lockBit2 lb = lb.getLsbD 1 ∧
    (isLocked lb = true ↔ lb.getLsbD 0 = false) ∧
    ∀ lb' : Byte, lb'.getLsbD 0 = lb.getLsbD 0 → isLocked lb' = isLocked lb

/-- 43_fuse_lock.md R185 to R188, 20_memory.md R65: the three fuse writes complete: the first two frame pairs of
`CMD[WR.x]`, the value unchanged on SDI in the second, then the two bytes of the Fuse Address on SII, high byte first,
with `PAD_DATA` on SDI; no wait follows. -/
def Obligations.FuseWritesSendValueAndAddress : Prop :=
  ∀ (v : Byte) (s : State), configOk s.cfg = true → s.sdoDir = .input →
    ∀ op ∈ [(Instr.wrfL v, s.cfg.cmd.wrL, s.cfg.fuseAddr.low), (Instr.wrfH v, s.cfg.cmd.wrH, s.cfg.fuseAddr.high),
            (Instr.wrfE v, s.cfg.cmd.wrE, s.cfg.fuseAddr.ext)],
    ∃ t p1 p2 bs, exec op.1 s = .next t ∧
      (op.2.1.map (CmdEntry.pair s.cfg.padData v)).take 2 = [p1, p2] ∧ p2.sdi = v ∧
      IsLinkRun s.cfg
        (sends [p1, p2, ⟨s.cfg.padData, op.2.2.extractLsb' 8 8⟩, ⟨s.cfg.padData, op.2.2.extractLsb' 0 8⟩]) bs
        s.now (newEvents s t) t.now ∧
      linkLinesLow t ∧ (∀ r ∈ linkRegs, r ∉ t.unwritten) ∧ LinkStep s t

/-- 44_erase.md R210: ERASE completes: three frame pairs, then the completion wait; its outcome is not used. -/
def Obligations.EraseSendsThreePairsAndWaits : Prop :=
  ∀ s : State, configOk s.cfg = true → s.sdoDir = .input →
    ∃ t bs, exec .erase s = .next t ∧ bs.length = 3 ∧
      IsLinkRun s.cfg (sends (s.cfg.cmd.erase.map (CmdEntry.pair s.cfg.padData 0)) ++ [.wait]) bs
        s.now (newEvents s t) t.now ∧
      linkLinesLow t ∧ (∀ r ∈ linkRegs, r ∉ t.unwritten) ∧ LinkStep s t

/-- 10_state.md R28, R44, 40_link.md R116: no operation but a SET whose expressions name it reads the outcome of the
last wait: what an operation does, seen without `wres`, is the same whatever `wres` was. -/
def Obligations.WaitOutcomeIsHidden : Prop :=
  ∀ (i : Instr) (s : State) (w : WaitResult), (∀ as, i = .set as → Reg.wres ∉ setReads as) →
    mapNext hideWres (exec i { s with wait := { s.wait with wres := w } }) = mapNext hideWres (exec i s)

/-! ## The session -/

/-- 45_session.md R222, R232, 10_state.md R37: a session asked for in IDLE completes: it ends in IDLE with its outcome
published and the lines at rest, a finished session (60_exceptions.md R278) unless a fault was recorded before it; it
records none, and it leaves the configuration and the interface alone. That exec of SESSION is the
whole session is the model's choice (log 22). -/
def Obligations.SessionEndsPublished : Prop :=
  ∀ (a : Option Action) (s : State), configOk s.cfg = true → s.pc.phase = .idle →
    ∃ t, exec (.session a) s = .next t ∧ t.pc = { phase := .idle, upc := 0 } ∧ t.outcome.valid = true ∧
      (s.readUnwritten = false → sessionEnded t) ∧ t.readUnwritten = s.readUnwritten ∧
      t.pins = { rst := true, vcc := false, sci := false, sii := false, sdi := false, sdoOut := false } ∧
      t.sdoDir = .input ∧ t.sess.action = a.getD .writeDefaults ∧ t.outcome.action = a.getD .writeDefaults ∧
      (∀ r ∈ resetUnwritten, r ∉ t.unwritten) ∧
      t.cfg = s.cfg ∧ t.host = s.host ∧ t.issue = s.issue ∧ s.now ≤ t.now ∧ s.trace <+: t.trace

/-- 45_session.md R234 (with R222, R226 to R231): what the outcome holds on each path: the signature and the device it
names, the bytes that its own reads returned and their lock decode, the bytes it wrote, and what it did. Log 33: a byte
read is the one its sequence's last frame pair returned. -/
def Obligations.SessionOutcomeByPath : Prop :=
  ∀ (a : Option Action) (s t : State), configOk s.cfg = true → s.pc.phase = .idle →
    exec (.session a) s = .next t →
    ∃ (bI bR bE bW bV : List Byte) (hi lo : Byte),
      IsSession s.cfg (sessionLinks s.cfg t.knownRow t.outcome.action t.outcome.erased) [bI, bR, bE, bW, bV]
        (newEvents s t) ∧
      bI[3]? = some hi ∧ bI[7]? = some lo ∧ t.ident.sig = hi ++ lo ∧
      (∀ k, t.ident.desc = some k ↔ ∃ d, s.cfg.desc[k]? = some d ∧ d.signature = hi ++ lo) ∧
      t.outcome.action = a.getD .writeDefaults ∧
      t.outcome.signature = some t.ident.sig ∧ t.outcome.device = some t.ident.desc ∧
      t.outcome.fuseL0 = bR[2]? ∧ t.outcome.fuseH0 = bR[5]? ∧
      t.outcome.fuseE0 = (if (t.knownRow.bind (·.efuseDef)).isSome then bR[8]? else none) ∧
      t.outcome.lockRaw0 = bR.getLast? ∧
      t.outcome.lb1 = t.outcome.lockRaw0.map (·.getLsbD 0) ∧ t.outcome.lb2 = t.outcome.lockRaw0.map (·.getLsbD 1) ∧
      t.outcome.locked0 = t.outcome.lockRaw0.map (fun raw => !raw.getLsbD 0) ∧
      t.outcome.erased = (t.ident.desc.isSome && (t.outcome.action = .erase || (t.outcome.action = .writeDefaults
        && t.outcome.locked0 = some true))) ∧
      t.outcome.escalated = (t.outcome.action = .writeDefaults && t.outcome.locked0 = some true) ∧
      t.outcome.wrote = (t.ident.desc.isSome && t.outcome.action = .writeDefaults) ∧
      t.outcome.writtenL = (if t.outcome.wrote then t.knownRow.map (·.lfuseDef) else none) ∧
      t.outcome.writtenH = (if t.outcome.wrote then t.knownRow.map (·.hfuseDef) else none) ∧
      t.outcome.writtenE = (if t.outcome.wrote then t.knownRow.bind (·.efuseDef) else none) ∧
      t.outcome.fuseL1 = bV[2]? ∧ t.outcome.fuseH1 = bV[5]? ∧
      t.outcome.fuseE1 = (if (t.knownRow.bind (·.efuseDef)).isSome then bV[8]? else none) ∧
      t.outcome.lockRaw1 = (if t.outcome.erased then bV.getLast? else none) ∧
      t.outcome.locked1 = t.outcome.lockRaw1.map fun raw => !raw.getLsbD 0

/-- 45_session.md R222, R223, R235 (with R226, R228, R230; 30_encoding.md R89): which frame pairs a session sends on each
path, in which order and between which waits, and how many: eleven clock pulses each (40_link.md R126). -/
def Obligations.SessionFramePairCounts : Prop :=
  ∀ (a : Option Action) (s t : State), configOk s.cfg = true → s.pc.phase = .idle →
    exec (.session a) s = .next t →
    (∃ bytes, IsSession s.cfg (sessionLinks s.cfg t.knownRow t.outcome.action t.outcome.erased) bytes
      (newEvents s t)) ∧
    ∃ pairs waits,
      clockRises (newKinds s t) = 11 * pairs ∧
      pairs = sendCount (sessionLinks s.cfg t.knownRow t.outcome.action t.outcome.erased).flatten ∧
      waits = (sessionLinks s.cfg t.knownRow t.outcome.action t.outcome.erased).flatten.count .wait ∧
      (pairs, waits) =
        (match t.knownRow with
         | none => (8, 0)
         | some d =>
           match d.family, t.outcome.action, t.outcome.erased with
           | .fam2, .readOnly, _ => (17, 1)
           | .fam3, .readOnly, _ => (20, 1)
           | .fam2, .erase, _ => (29, 3)
           | .fam3, .erase, _ => (35, 3)
           | .fam2, .writeDefaults, false => (31, 1)
           | .fam3, .writeDefaults, false => (41, 1)
           | .fam2, .writeDefaults, true => (37, 3)
           | .fam3, .writeDefaults, true => (47, 3))

/-- 30_encoding.md R97, R98, 45_session.md R222: with the default configuration, what a session that escalated on a part
with two fuse bytes put on the lines: ENTER, these frame pairs in this order with these waits between them, EXIT
(95_test_vectors.md program P4). -/
def Obligations.EscalatedSessionOfTwoFuses : Prop :=
  ∀ (a : Option Action) (s t : State) (d : Descriptor), s.cfg = Config.default → s.pc.phase = .idle →
    exec (.session a) s = .next t → t.outcome.escalated = true → t.knownRow = some d → d.efuseDef = none →
    ∃ links bytes, IsSession s.cfg links bytes (newEvents s t) ∧
      links.flatten =
        sends [⟨0x08, 0x4C⟩, ⟨0x01, 0x0C⟩, ⟨0x00, 0x68⟩, ⟨0x00, 0x6C⟩, ⟨0x08, 0x4C⟩, ⟨0x02, 0x0C⟩, ⟨0x00, 0x68⟩,
          ⟨0x00, 0x6C⟩, ⟨0x04, 0x4C⟩, ⟨0x00, 0x68⟩, ⟨0x00, 0x6C⟩, ⟨0x04, 0x4C⟩, ⟨0x00, 0x7A⟩, ⟨0x00, 0x7E⟩,
          ⟨0x04, 0x4C⟩, ⟨0x00, 0x78⟩, ⟨0x00, 0x7C⟩] ++ [.wait] ++
        sends [⟨0x80, 0x4C⟩, ⟨0x00, 0x64⟩, ⟨0x00, 0x6C⟩] ++ [.wait] ++
        sends [⟨0x40, 0x4C⟩, ⟨d.lfuseDef, 0x2C⟩, ⟨0x00, 0x64⟩, ⟨0x00, 0x6C⟩, ⟨0x40, 0x4C⟩, ⟨d.hfuseDef, 0x2C⟩,
          ⟨0x00, 0x74⟩, ⟨0x00, 0x7C⟩, ⟨0x04, 0x4C⟩, ⟨0x00, 0x68⟩, ⟨0x00, 0x6C⟩, ⟨0x04, 0x4C⟩, ⟨0x00, 0x7A⟩,
          ⟨0x00, 0x7E⟩, ⟨0x04, 0x4C⟩, ⟨0x00, 0x78⟩, ⟨0x00, 0x7C⟩] ++ [.wait]

/-- 45_session.md R220: a trigger outside IDLE is ignored. That SESSION asked for by exec outside IDLE leaves the state
as it is is the model's reading of the same rule (log 32, DEDUCED). -/
def Obligations.SessionIgnoredOutsideIdle : Prop :=
  ∀ (a : Option Action) (s : State), configOk s.cfg = true → s.pc.phase ≠ .idle →
    exec (.session a) s = .next s ∧ step (hostTrigger s) = step s

/-- 45_session.md R220, R221: a trigger in IDLE starts a session with the action input of that moment. That the trigger is
one pending bit is the model's reading (log 25, DEDUCED), and that the writes of R221 are one step with the transition
to P_ENTER is the model's choice (log 37). -/
def Obligations.TriggerStartsSession : Prop :=
  ∀ s : State, configOk s.cfg = true → s.pc.phase = .idle → s.host.trigger = true →
    ∃ t, step s = .next t ∧ t.pc = { phase := .pEnter, upc := 0 } ∧
      t.sess = { action := s.host.action.getD .writeDefaults, locked0 := false, erased := false,
                 escalated := false, wrote := false } ∧
      t.outcome = { SessionOutcome.blank with action := s.host.action.getD .writeDefaults } ∧
      t.cfg = s.cfg ∧ t.pins = s.pins ∧ t.sdoDir = s.sdoDir ∧ t.link = s.link ∧ t.wait = s.wait ∧
      t.ident = s.ident ∧ t.now = s.now ∧ t.trace = s.trace ∧ t.env = s.env ∧ t.issue = s.issue ∧
      t.readUnwritten = s.readUnwritten ∧
      (∀ r, r ∈ t.unwritten ↔
        r ∈ s.unwritten ∧ r ∈ [Reg.dout, .iout, .acc, .bidx, .rbyte, .wstart, .wres, .sig, .desc]) ∧
      t.host = { s.host with trigger := false }

/-- 45_session.md R223, R227: the exit transitions of the phases. That such a transition is a step of its own, in which
no time passes and nothing but the pc changes, is the model's choice (log 12), and so is which registers it reads, each
as it stands, the fault ReadUnwritten being recorded where nothing has written it (log 8). -/
def Obligations.PhaseGraph : Prop :=
  ∀ s : State, configOk s.cfg = true → s.pc.phase ≠ .idle →
    (uprog s.pc.phase s).length ≤ s.pc.upc →
    ∃ t, step s = .next t ∧ t.pc.upc = 0 ∧
      t = { s with pc := t.pc, host := { s.host with trigger := false }, readUnwritten := t.readUnwritten } ∧
      (t.readUnwritten = true ↔ s.readUnwritten = true ∨
        (s.pc.phase ∈ [Phase.pIdent, .pRead, .pWrite, .pVerify] ∧ Reg.desc ∈ s.unwritten) ∨
        (s.pc.phase ∈ [Phase.pRead, .pErase] ∧ Reg.action ∈ s.unwritten) ∨
        (s.pc.phase = .pRead ∧ Reg.locked0 ∈ s.unwritten) ∨ (s.pc.phase = .pVerify ∧ Reg.erased ∈ s.unwritten)) ∧
      match s.pc.phase with
      | .idle => False
      | .pEnter => t.pc.phase = .pIdent
      | .pIdent => t.pc.phase = if s.ident.desc = none then .pUnknown else .pRead
      | .pUnknown => t.pc.phase = .pExit
      | .pRead => t.pc.phase =
          if s.sess.action = .readOnly then .pExit
          else if s.sess.action = .erase ∨ s.sess.locked0 = true then .pErase else .pWrite
      | .pErase => t.pc.phase = if s.sess.action = .writeDefaults then .pWrite else .pVerify
      | .pWrite => t.pc.phase = .pVerify
      | .pVerify => t.pc.phase = .pExit
      | .pExit => t.pc.phase = .idle

/-! ## Steps -/

/-- 10_state.md R31, 40_link.md R124: inside a session a step is exec of the micro-operation the pc names, after which
`upc` is one more, unless it was a POLL that did not end its wait. How the lists number micro-operations is the model's
choice (logs 12, 37), and so is that the list of P_READ, P_WRITE or P_VERIFY is a read of `desc`, and that of P_VERIFY
of `erased`, which is recorded where nothing has written the register (log 8). -/
def Obligations.StepRunsMicroOperation : Prop :=
  ∀ (s u t : State) (i : Instr), configOk s.cfg = true → s.pc.phase ≠ .idle →
    (uprog s.pc.phase s)[s.pc.upc]? = some i →
    u = { s with
      host := { s.host with trigger := false }
      readUnwritten := s.readUnwritten ||
        decide ((s.pc.phase ∈ [Phase.pRead, .pWrite, .pVerify] ∧ Reg.desc ∈ s.unwritten) ∨
          (s.pc.phase = .pVerify ∧ Reg.erased ∈ s.unwritten)) } →
    exec i u = .next t →
    step s = .next { t with pc := { t.pc with
      upc := if i = .poll ∧ pollEnds u = false then t.pc.upc else t.pc.upc + 1 } }

/-- Log 10 (the model's own port for the harness of 95_test_vectors.md section 3): in IDLE, where no trigger is
pending, a step runs the operation that the issued frame pairs decode to, and takes it from the queue. -/
def Obligations.StepRunsIssuedOperation : Prop :=
  ∀ (s : State) (ps : List FramePair) (rest : List Issue) (i : Instr), configOk s.cfg = true →
    s.pc.phase = .idle → s.host.trigger = false → s.issue = .words ps :: rest →
    decodePairs s.cfg ps = .ok i → step s = exec i { s with issue := rest }

/-- Log 10, log 16 (the model's choice): in IDLE with nothing pending a step only lets time pass. -/
def Obligations.IdleWaitsForTrigger : Prop :=
  ∀ s : State, configOk s.cfg = true → s.pc.phase = .idle → s.host.trigger = false → s.issue = [] →
    ∃ t, step s = .next t ∧ s.now ≤ t.now ∧ t = { s with now := t.now, env := t.env }

/-! ## Whole-machine statements -/

/-- The invariant of an engine that runs sessions only holds at reset (10_state.md R45). -/
def Obligations.SessionInvariantAtReset : Prop := SessionInv State.reset

/-- 45_session.md R224, 10_state.md R21, R22, R37 to R39, 40_link.md R119, 70_reset_and_hazards.md R292: every step of
an engine that runs sessions only keeps its invariant: the lines are what the completed micro-operations made of them,
the registers still unwritten are ones the rest of the phase writes first, no fault is recorded, the outcome is published only at the end,
and the trace is in time order with its latch writes far enough apart. -/
def Obligations.EveryStepKeepsSessionInvariant : Prop :=
  ∀ s t : State, SessionInv s → step s = .next t → SessionInv t

/-- 45_session.md R224, 60_exceptions.md R263, R264, 70_reset_and_hazards.md R292: an engine that runs sessions only
neither faults nor refuses, and records no fault. -/
def Obligations.SessionsNeverStop : Prop :=
  ∀ s : State, SessionInv s → ∃ t, step s = .next t ∧ t.readUnwritten = false

/-- 70_reset_and_hazards.md R299, R300, 41_power.md R142: outside P_EXIT the 12 V is on only while VCC is; the engine
drives the data-out line only inside P_ENTER, and then only while the 12 V is on or about to be applied with the data
lines low. -/
def Obligations.HighVoltageOnlyWithSupply : Prop :=
  ∀ s : State, SessionInv s →
    (s.pc.phase ≠ .pExit → s.pins.rst = false → s.pins.vcc = true) ∧
    (s.sdoDir = .output → s.pc.phase = .pEnter ∧ s.pins.sdoOut = false ∧ s.pins.sdi = false ∧ s.pins.sii = false) ∧
    (s.pc.phase = .idle → s.pins.vcc = false ∧ s.pins.rst = true)

/-- 10_state.md R33, 45_session.md R236: the action latched at the start does not change during a session. -/
def Obligations.ActionIsFixedDuringSession : Prop :=
  ∀ s t : State, SessionInv s → s.pc.phase ≠ .idle → step s = .next t →
    t.sess.action = s.sess.action ∧ t.outcome.action = s.outcome.action

/-- 45_session.md R222, R224, R233: the sequencer refines SESSION: from a trigger in IDLE, finitely many steps of the
engine, one micro-operation each, reach exactly the state that the session's pseudocode gives. -/
def Obligations.SequencerRefinesSession : Prop :=
  ∀ s t : State, configOk s.cfg = true → s.pc.phase = .idle → s.host.trigger = true →
    exec (.session s.host.action) { s with host := { s.host with trigger := false } } = .next t →
    ∃ n, Sys2Proof.core.run n s = .next t

/-- 60_exceptions.md R263, R278: the fault ReadUnwritten, once recorded, is cleared by no operation, no step and no read of
the host, and a state that has it is no finished session. That the machine goes on after the fault at all is the model's choice
(log 8). -/
def Obligations.RecordedFaultStays : Prop :=
  ∀ s t : State, s.readUnwritten = true →
    (∃ i, exec i s = .next t) ∨ step s = .next t ∨ hostReadOutcome s = .next (s.outcome, t) →
    t.readUnwritten = true ∧ ¬ sessionEnded t
end

