-- ==== Sys2Proof/Laws/State.lean ====
section
/-! SUPPORT. One lemma per field per update of State: what each shared operation of Machine/Ops.lean leaves in each
field. Every one holds by rfl, so that no later proof unfolds a record update. -/

namespace Sys2Proof.Machine


/-! ### pin -/

@[simp] theorem pin_cfg (r : Role) (b : Bool) (s : State) : (pin r b s).cfg = s.cfg := rfl
@[simp] theorem pin_pins (r : Role) (b : Bool) (s : State) : (pin r b s).pins = s.pins.set b r := rfl
@[simp] theorem pin_sdoDir (r : Role) (b : Bool) (s : State) : (pin r b s).sdoDir = s.sdoDir := rfl
@[simp] theorem pin_link (r : Role) (b : Bool) (s : State) : (pin r b s).link = s.link := rfl
@[simp] theorem pin_wait (r : Role) (b : Bool) (s : State) : (pin r b s).wait = s.wait := rfl
@[simp] theorem pin_ident (r : Role) (b : Bool) (s : State) : (pin r b s).ident = s.ident := rfl
@[simp] theorem pin_pc (r : Role) (b : Bool) (s : State) : (pin r b s).pc = s.pc := rfl
@[simp] theorem pin_sess (r : Role) (b : Bool) (s : State) : (pin r b s).sess = s.sess := rfl
@[simp] theorem pin_outcome (r : Role) (b : Bool) (s : State) : (pin r b s).outcome = s.outcome := rfl
@[simp] theorem pin_now (r : Role) (b : Bool) (s : State) : (pin r b s).now = s.edgeTime + s.extra := rfl
@[simp] theorem pin_trace (r : Role) (b : Bool) (s : State) : (pin r b s).trace = s.trace ++ [⟨s.edgeTime, .level r b⟩] := rfl
@[simp] theorem pin_unwritten (r : Role) (b : Bool) (s : State) : (pin r b s).unwritten = s.unwritten := rfl
@[simp] theorem pin_readUnwritten (r : Role) (b : Bool) (s : State) : (pin r b s).readUnwritten = s.readUnwritten := rfl
@[simp] theorem pin_env (r : Role) (b : Bool) (s : State) : (pin r b s).env = s.env.drawn := rfl
@[simp] theorem pin_host (r : Role) (b : Bool) (s : State) : (pin r b s).host = s.host := rfl
@[simp] theorem pin_issue (r : Role) (b : Bool) (s : State) : (pin r b s).issue = s.issue := rfl

/-! ### setDir -/

@[simp] theorem setDir_cfg (d : Dir) (s : State) : (setDir d s).cfg = s.cfg := rfl
@[simp] theorem setDir_pins (d : Dir) (s : State) : (setDir d s).pins = s.pins := rfl
@[simp] theorem setDir_sdoDir (d : Dir) (s : State) : (setDir d s).sdoDir = d := rfl
@[simp] theorem setDir_link (d : Dir) (s : State) : (setDir d s).link = s.link := rfl
@[simp] theorem setDir_wait (d : Dir) (s : State) : (setDir d s).wait = s.wait := rfl
@[simp] theorem setDir_ident (d : Dir) (s : State) : (setDir d s).ident = s.ident := rfl
@[simp] theorem setDir_pc (d : Dir) (s : State) : (setDir d s).pc = s.pc := rfl
@[simp] theorem setDir_sess (d : Dir) (s : State) : (setDir d s).sess = s.sess := rfl
@[simp] theorem setDir_outcome (d : Dir) (s : State) : (setDir d s).outcome = s.outcome := rfl
@[simp] theorem setDir_now (d : Dir) (s : State) : (setDir d s).now = s.now + s.extra := rfl
@[simp] theorem setDir_trace (d : Dir) (s : State) : (setDir d s).trace = s.trace ++ [⟨s.now, .dir d⟩] := rfl
@[simp] theorem setDir_unwritten (d : Dir) (s : State) : (setDir d s).unwritten = s.unwritten := rfl
@[simp] theorem setDir_readUnwritten (d : Dir) (s : State) : (setDir d s).readUnwritten = s.readUnwritten := rfl
@[simp] theorem setDir_env (d : Dir) (s : State) : (setDir d s).env = s.env.drawn := rfl
@[simp] theorem setDir_host (d : Dir) (s : State) : (setDir d s).host = s.host := rfl
@[simp] theorem setDir_issue (d : Dir) (s : State) : (setDir d s).issue = s.issue := rfl

/-! ### elapse -/

@[simp] theorem elapse_cfg (d : Nat) (s : State) : (elapse d s).cfg = s.cfg := rfl
@[simp] theorem elapse_pins (d : Nat) (s : State) : (elapse d s).pins = s.pins := rfl
@[simp] theorem elapse_sdoDir (d : Nat) (s : State) : (elapse d s).sdoDir = s.sdoDir := rfl
@[simp] theorem elapse_link (d : Nat) (s : State) : (elapse d s).link = s.link := rfl
@[simp] theorem elapse_wait (d : Nat) (s : State) : (elapse d s).wait = s.wait := rfl
@[simp] theorem elapse_ident (d : Nat) (s : State) : (elapse d s).ident = s.ident := rfl
@[simp] theorem elapse_pc (d : Nat) (s : State) : (elapse d s).pc = s.pc := rfl
@[simp] theorem elapse_sess (d : Nat) (s : State) : (elapse d s).sess = s.sess := rfl
@[simp] theorem elapse_outcome (d : Nat) (s : State) : (elapse d s).outcome = s.outcome := rfl
@[simp] theorem elapse_now (d : Nat) (s : State) : (elapse d s).now = s.now + d + s.extra := rfl
@[simp] theorem elapse_trace (d : Nat) (s : State) : (elapse d s).trace = s.trace := rfl
@[simp] theorem elapse_unwritten (d : Nat) (s : State) : (elapse d s).unwritten = s.unwritten := rfl
@[simp] theorem elapse_readUnwritten (d : Nat) (s : State) : (elapse d s).readUnwritten = s.readUnwritten := rfl
@[simp] theorem elapse_env (d : Nat) (s : State) : (elapse d s).env = s.env.drawn := rfl
@[simp] theorem elapse_host (d : Nat) (s : State) : (elapse d s).host = s.host := rfl
@[simp] theorem elapse_issue (d : Nat) (s : State) : (elapse d s).issue = s.issue := rfl

/-! ### delay -/

@[simp] theorem delay_cfg (t : TimeParam) (s : State) : (delay t s).cfg = s.cfg := rfl
@[simp] theorem delay_pins (t : TimeParam) (s : State) : (delay t s).pins = s.pins := rfl
@[simp] theorem delay_sdoDir (t : TimeParam) (s : State) : (delay t s).sdoDir = s.sdoDir := rfl
@[simp] theorem delay_link (t : TimeParam) (s : State) : (delay t s).link = s.link := rfl
@[simp] theorem delay_wait (t : TimeParam) (s : State) : (delay t s).wait = s.wait := rfl
@[simp] theorem delay_ident (t : TimeParam) (s : State) : (delay t s).ident = s.ident := rfl
@[simp] theorem delay_pc (t : TimeParam) (s : State) : (delay t s).pc = s.pc := rfl
@[simp] theorem delay_sess (t : TimeParam) (s : State) : (delay t s).sess = s.sess := rfl
@[simp] theorem delay_outcome (t : TimeParam) (s : State) : (delay t s).outcome = s.outcome := rfl
@[simp] theorem delay_now (t : TimeParam) (s : State) : (delay t s).now = s.now + timingOf s.cfg.timing t + s.extra := rfl
@[simp] theorem delay_trace (t : TimeParam) (s : State) : (delay t s).trace = s.trace := rfl
@[simp] theorem delay_unwritten (t : TimeParam) (s : State) : (delay t s).unwritten = s.unwritten := rfl
@[simp] theorem delay_readUnwritten (t : TimeParam) (s : State) : (delay t s).readUnwritten = s.readUnwritten := rfl
@[simp] theorem delay_env (t : TimeParam) (s : State) : (delay t s).env = s.env.drawn := rfl
@[simp] theorem delay_host (t : TimeParam) (s : State) : (delay t s).host = s.host := rfl
@[simp] theorem delay_issue (t : TimeParam) (s : State) : (delay t s).issue = s.issue := rfl

/-! ### observe -/

@[simp] theorem observe_cfg (s : State) : (observe s).cfg = s.cfg := rfl
@[simp] theorem observe_pins (s : State) : (observe s).pins = s.pins := rfl
@[simp] theorem observe_sdoDir (s : State) : (observe s).sdoDir = s.sdoDir := rfl
@[simp] theorem observe_link (s : State) : (observe s).link = s.link := rfl
@[simp] theorem observe_wait (s : State) : (observe s).wait = s.wait := rfl
@[simp] theorem observe_ident (s : State) : (observe s).ident = s.ident := rfl
@[simp] theorem observe_pc (s : State) : (observe s).pc = s.pc := rfl
@[simp] theorem observe_sess (s : State) : (observe s).sess = s.sess := rfl
@[simp] theorem observe_outcome (s : State) : (observe s).outcome = s.outcome := rfl
@[simp] theorem observe_now (s : State) : (observe s).now = s.now + s.extra := rfl
@[simp] theorem observe_trace (s : State) : (observe s).trace = s.trace ++ [⟨s.now, .sample s.sdoLevel⟩] := rfl
@[simp] theorem observe_unwritten (s : State) : (observe s).unwritten = s.unwritten := rfl
@[simp] theorem observe_readUnwritten (s : State) : (observe s).readUnwritten = s.readUnwritten := rfl
@[simp] theorem observe_env (s : State) : (observe s).env = s.env.sampled := rfl
@[simp] theorem observe_host (s : State) : (observe s).host = s.host := rfl
@[simp] theorem observe_issue (s : State) : (observe s).issue = s.issue := rfl

/-! ### noteReads -/

@[simp] theorem noteReads_cfg (rs : List Reg) (s : State) : (noteReads rs s).cfg = s.cfg := rfl
@[simp] theorem noteReads_pins (rs : List Reg) (s : State) : (noteReads rs s).pins = s.pins := rfl
@[simp] theorem noteReads_sdoDir (rs : List Reg) (s : State) : (noteReads rs s).sdoDir = s.sdoDir := rfl
@[simp] theorem noteReads_link (rs : List Reg) (s : State) : (noteReads rs s).link = s.link := rfl
@[simp] theorem noteReads_wait (rs : List Reg) (s : State) : (noteReads rs s).wait = s.wait := rfl
@[simp] theorem noteReads_ident (rs : List Reg) (s : State) : (noteReads rs s).ident = s.ident := rfl
@[simp] theorem noteReads_pc (rs : List Reg) (s : State) : (noteReads rs s).pc = s.pc := rfl
@[simp] theorem noteReads_sess (rs : List Reg) (s : State) : (noteReads rs s).sess = s.sess := rfl
@[simp] theorem noteReads_outcome (rs : List Reg) (s : State) : (noteReads rs s).outcome = s.outcome := rfl
@[simp] theorem noteReads_now (rs : List Reg) (s : State) : (noteReads rs s).now = s.now := rfl
@[simp] theorem noteReads_trace (rs : List Reg) (s : State) : (noteReads rs s).trace = s.trace := rfl
@[simp] theorem noteReads_unwritten (rs : List Reg) (s : State) : (noteReads rs s).unwritten = s.unwritten := rfl
@[simp] theorem noteReads_readUnwritten (rs : List Reg) (s : State) :
    (noteReads rs s).readUnwritten = (s.readUnwritten || rs.any fun r => s.unwritten.contains r) := rfl
@[simp] theorem noteReads_env (rs : List Reg) (s : State) : (noteReads rs s).env = s.env := rfl
@[simp] theorem noteReads_host (rs : List Reg) (s : State) : (noteReads rs s).host = s.host := rfl
@[simp] theorem noteReads_issue (rs : List Reg) (s : State) : (noteReads rs s).issue = s.issue := rfl
@[simp] theorem noteReads_nil (s : State) : noteReads [] s = s := by
  simp [noteReads]
@[simp] theorem noteReads_readReg (rs : List Reg) (s : State) (r : Reg) : (noteReads rs s).readReg r = s.readReg r := by
  cases r <;> rfl
@[simp] theorem noteReads_sdoLevel (rs : List Reg) (s : State) : (noteReads rs s).sdoLevel = s.sdoLevel := rfl
@[simp] theorem noteReads_pollEnds (rs : List Reg) (s : State) : pollEnds (noteReads rs s) = pollEnds s := rfl
@[simp] theorem noteReads_uprog (p : Phase) (rs : List Reg) (s : State) : uprog p (noteReads rs s) = uprog p s := rfl

/-! ### markWritten -/

@[simp] theorem markWritten_cfg (s : State) (r : Reg) : (s.markWritten r).cfg = s.cfg := rfl
@[simp] theorem markWritten_pins (s : State) (r : Reg) : (s.markWritten r).pins = s.pins := rfl
@[simp] theorem markWritten_sdoDir (s : State) (r : Reg) : (s.markWritten r).sdoDir = s.sdoDir := rfl
@[simp] theorem markWritten_link (s : State) (r : Reg) : (s.markWritten r).link = s.link := rfl
@[simp] theorem markWritten_wait (s : State) (r : Reg) : (s.markWritten r).wait = s.wait := rfl
@[simp] theorem markWritten_ident (s : State) (r : Reg) : (s.markWritten r).ident = s.ident := rfl
@[simp] theorem markWritten_pc (s : State) (r : Reg) : (s.markWritten r).pc = s.pc := rfl
@[simp] theorem markWritten_sess (s : State) (r : Reg) : (s.markWritten r).sess = s.sess := rfl
@[simp] theorem markWritten_outcome (s : State) (r : Reg) : (s.markWritten r).outcome = s.outcome := rfl
@[simp] theorem markWritten_now (s : State) (r : Reg) : (s.markWritten r).now = s.now := rfl
@[simp] theorem markWritten_trace (s : State) (r : Reg) : (s.markWritten r).trace = s.trace := rfl
@[simp] theorem markWritten_unwritten (s : State) (r : Reg) : (s.markWritten r).unwritten = s.unwritten.filter fun x => x ≠ r := rfl
@[simp] theorem markWritten_readUnwritten (s : State) (r : Reg) : (s.markWritten r).readUnwritten = s.readUnwritten := rfl
@[simp] theorem markWritten_env (s : State) (r : Reg) : (s.markWritten r).env = s.env := rfl
@[simp] theorem markWritten_host (s : State) (r : Reg) : (s.markWritten r).host = s.host := rfl
@[simp] theorem markWritten_issue (s : State) (r : Reg) : (s.markWritten r).issue = s.issue := rfl

/-! ### advance -/

@[simp] theorem advance_cfg (done : Bool) (s : State) : (advance done s).cfg = s.cfg := rfl
@[simp] theorem advance_pins (done : Bool) (s : State) : (advance done s).pins = s.pins := rfl
@[simp] theorem advance_sdoDir (done : Bool) (s : State) : (advance done s).sdoDir = s.sdoDir := rfl
@[simp] theorem advance_link (done : Bool) (s : State) : (advance done s).link = s.link := rfl
@[simp] theorem advance_wait (done : Bool) (s : State) : (advance done s).wait = s.wait := rfl
@[simp] theorem advance_ident (done : Bool) (s : State) : (advance done s).ident = s.ident := rfl
@[simp] theorem advance_pc (done : Bool) (s : State) : (advance done s).pc = { s.pc with upc := if done then s.pc.upc + 1 else s.pc.upc } := rfl
@[simp] theorem advance_sess (done : Bool) (s : State) : (advance done s).sess = s.sess := rfl
@[simp] theorem advance_outcome (done : Bool) (s : State) : (advance done s).outcome = s.outcome := rfl
@[simp] theorem advance_now (done : Bool) (s : State) : (advance done s).now = s.now := rfl
@[simp] theorem advance_trace (done : Bool) (s : State) : (advance done s).trace = s.trace := rfl
@[simp] theorem advance_unwritten (done : Bool) (s : State) : (advance done s).unwritten = s.unwritten := rfl
@[simp] theorem advance_readUnwritten (done : Bool) (s : State) : (advance done s).readUnwritten = s.readUnwritten := rfl
@[simp] theorem advance_env (done : Bool) (s : State) : (advance done s).env = s.env := rfl
@[simp] theorem advance_host (done : Bool) (s : State) : (advance done s).host = s.host := rfl
@[simp] theorem advance_issue (done : Bool) (s : State) : (advance done s).issue = s.issue := rfl

/-! ### leavePhase -/

@[simp] theorem leavePhase_cfg (p : Phase) (s : State) : (leavePhase p s).cfg = s.cfg := rfl
@[simp] theorem leavePhase_pins (p : Phase) (s : State) : (leavePhase p s).pins = s.pins := rfl
@[simp] theorem leavePhase_sdoDir (p : Phase) (s : State) : (leavePhase p s).sdoDir = s.sdoDir := rfl
@[simp] theorem leavePhase_link (p : Phase) (s : State) : (leavePhase p s).link = s.link := rfl
@[simp] theorem leavePhase_wait (p : Phase) (s : State) : (leavePhase p s).wait = s.wait := rfl
@[simp] theorem leavePhase_ident (p : Phase) (s : State) : (leavePhase p s).ident = s.ident := rfl
@[simp] theorem leavePhase_pc (p : Phase) (s : State) : (leavePhase p s).pc = { phase := nextPhase s p, upc := 0 } := rfl
@[simp] theorem leavePhase_sess (p : Phase) (s : State) : (leavePhase p s).sess = s.sess := rfl
@[simp] theorem leavePhase_outcome (p : Phase) (s : State) : (leavePhase p s).outcome = s.outcome := rfl
@[simp] theorem leavePhase_now (p : Phase) (s : State) : (leavePhase p s).now = s.now := rfl
@[simp] theorem leavePhase_trace (p : Phase) (s : State) : (leavePhase p s).trace = s.trace := rfl
@[simp] theorem leavePhase_unwritten (p : Phase) (s : State) : (leavePhase p s).unwritten = s.unwritten := rfl
@[simp] theorem leavePhase_readUnwritten (p : Phase) (s : State) : (leavePhase p s).readUnwritten = s.readUnwritten := rfl
@[simp] theorem leavePhase_env (p : Phase) (s : State) : (leavePhase p s).env = s.env := rfl
@[simp] theorem leavePhase_host (p : Phase) (s : State) : (leavePhase p s).host = s.host := rfl
@[simp] theorem leavePhase_issue (p : Phase) (s : State) : (leavePhase p s).issue = s.issue := rfl

/-! ### dropTrigger -/

@[simp] theorem dropTrigger_cfg (s : State) : (dropTrigger s).cfg = s.cfg := rfl
@[simp] theorem dropTrigger_pins (s : State) : (dropTrigger s).pins = s.pins := rfl
@[simp] theorem dropTrigger_sdoDir (s : State) : (dropTrigger s).sdoDir = s.sdoDir := rfl
@[simp] theorem dropTrigger_link (s : State) : (dropTrigger s).link = s.link := rfl
@[simp] theorem dropTrigger_wait (s : State) : (dropTrigger s).wait = s.wait := rfl
@[simp] theorem dropTrigger_ident (s : State) : (dropTrigger s).ident = s.ident := rfl
@[simp] theorem dropTrigger_pc (s : State) : (dropTrigger s).pc = s.pc := rfl
@[simp] theorem dropTrigger_sess (s : State) : (dropTrigger s).sess = s.sess := rfl
@[simp] theorem dropTrigger_outcome (s : State) : (dropTrigger s).outcome = s.outcome := rfl
@[simp] theorem dropTrigger_now (s : State) : (dropTrigger s).now = s.now := rfl
@[simp] theorem dropTrigger_trace (s : State) : (dropTrigger s).trace = s.trace := rfl
@[simp] theorem dropTrigger_unwritten (s : State) : (dropTrigger s).unwritten = s.unwritten := rfl
@[simp] theorem dropTrigger_readUnwritten (s : State) : (dropTrigger s).readUnwritten = s.readUnwritten := rfl
@[simp] theorem dropTrigger_env (s : State) : (dropTrigger s).env = s.env := rfl
@[simp] theorem dropTrigger_host (s : State) : (dropTrigger s).host = { s.host with trigger := false } := rfl
@[simp] theorem dropTrigger_issue (s : State) : (dropTrigger s).issue = s.issue := rfl

/-! ### hideWres -/

@[simp] theorem hideWres_cfg (s : State) : (hideWres s).cfg = s.cfg := rfl
@[simp] theorem hideWres_pins (s : State) : (hideWres s).pins = s.pins := rfl
@[simp] theorem hideWres_sdoDir (s : State) : (hideWres s).sdoDir = s.sdoDir := rfl
@[simp] theorem hideWres_link (s : State) : (hideWres s).link = s.link := rfl
@[simp] theorem hideWres_wait (s : State) : (hideWres s).wait = { s.wait with wres := .none } := rfl
@[simp] theorem hideWres_ident (s : State) : (hideWres s).ident = s.ident := rfl
@[simp] theorem hideWres_pc (s : State) : (hideWres s).pc = s.pc := rfl
@[simp] theorem hideWres_sess (s : State) : (hideWres s).sess = s.sess := rfl
@[simp] theorem hideWres_outcome (s : State) : (hideWres s).outcome = s.outcome := rfl
@[simp] theorem hideWres_now (s : State) : (hideWres s).now = s.now := rfl
@[simp] theorem hideWres_trace (s : State) : (hideWres s).trace = s.trace := rfl
@[simp] theorem hideWres_unwritten (s : State) : (hideWres s).unwritten = s.unwritten := rfl
@[simp] theorem hideWres_readUnwritten (s : State) : (hideWres s).readUnwritten = s.readUnwritten := rfl
@[simp] theorem hideWres_env (s : State) : (hideWres s).env = s.env := rfl
@[simp] theorem hideWres_host (s : State) : (hideWres s).host = s.host := rfl
@[simp] theorem hideWres_issue (s : State) : (hideWres s).issue = s.issue := rfl

/-! ### issueWords -/

@[simp] theorem issueWords_cfg (ps : List FramePair) (s : State) : (issueWords ps s).cfg = s.cfg := rfl
@[simp] theorem issueWords_pins (ps : List FramePair) (s : State) : (issueWords ps s).pins = s.pins := rfl
@[simp] theorem issueWords_sdoDir (ps : List FramePair) (s : State) : (issueWords ps s).sdoDir = s.sdoDir := rfl
@[simp] theorem issueWords_link (ps : List FramePair) (s : State) : (issueWords ps s).link = s.link := rfl
@[simp] theorem issueWords_wait (ps : List FramePair) (s : State) : (issueWords ps s).wait = s.wait := rfl
@[simp] theorem issueWords_ident (ps : List FramePair) (s : State) : (issueWords ps s).ident = s.ident := rfl
@[simp] theorem issueWords_pc (ps : List FramePair) (s : State) : (issueWords ps s).pc = { phase := .idle, upc := 0 } := rfl
@[simp] theorem issueWords_sess (ps : List FramePair) (s : State) : (issueWords ps s).sess = s.sess := rfl
@[simp] theorem issueWords_outcome (ps : List FramePair) (s : State) : (issueWords ps s).outcome = s.outcome := rfl
@[simp] theorem issueWords_now (ps : List FramePair) (s : State) : (issueWords ps s).now = s.now := rfl
@[simp] theorem issueWords_trace (ps : List FramePair) (s : State) : (issueWords ps s).trace = s.trace := rfl
@[simp] theorem issueWords_unwritten (ps : List FramePair) (s : State) : (issueWords ps s).unwritten = s.unwritten := rfl
@[simp] theorem issueWords_readUnwritten (ps : List FramePair) (s : State) : (issueWords ps s).readUnwritten = s.readUnwritten := rfl
@[simp] theorem issueWords_env (ps : List FramePair) (s : State) : (issueWords ps s).env = s.env := rfl
@[simp] theorem issueWords_host (ps : List FramePair) (s : State) : (issueWords ps s).host = { s.host with trigger := false } := rfl
@[simp] theorem issueWords_issue (ps : List FramePair) (s : State) : (issueWords ps s).issue = [.words ps] := rfl

/-! ### countOpen -/

@[simp] theorem countOpen_cfg (m : Bool) (s : State) : (countOpen m s).cfg = s.cfg := rfl
@[simp] theorem countOpen_pins (m : Bool) (s : State) : (countOpen m s).pins = s.pins := rfl
@[simp] theorem countOpen_sdoDir (m : Bool) (s : State) : (countOpen m s).sdoDir = s.sdoDir := rfl
@[simp] theorem countOpen_link (m : Bool) (s : State) : (countOpen m s).link = s.link := rfl
@[simp] theorem countOpen_wait (m : Bool) (s : State) : (countOpen m s).wait = s.wait := rfl
@[simp] theorem countOpen_ident (m : Bool) (s : State) : (countOpen m s).ident = s.ident := rfl
@[simp] theorem countOpen_pc (m : Bool) (s : State) : (countOpen m s).pc = s.pc := rfl
@[simp] theorem countOpen_sess (m : Bool) (s : State) : (countOpen m s).sess = s.sess := rfl
@[simp] theorem countOpen_outcome (m : Bool) (s : State) : (countOpen m s).outcome = s.outcome := rfl
@[simp] theorem countOpen_now (m : Bool) (s : State) : (countOpen m s).now = s.now := rfl
@[simp] theorem countOpen_trace (m : Bool) (s : State) : (countOpen m s).trace = s.trace := rfl
@[simp] theorem countOpen_unwritten (m : Bool) (s : State) : (countOpen m s).unwritten = s.unwritten := rfl
@[simp] theorem countOpen_readUnwritten (m : Bool) (s : State) : (countOpen m s).readUnwritten = s.readUnwritten := rfl
@[simp] theorem countOpen_env (m : Bool) (s : State) : (countOpen m s).env = if m then s.env.opened else s.env := rfl
@[simp] theorem countOpen_host (m : Bool) (s : State) : (countOpen m s).host = s.host := rfl
@[simp] theorem countOpen_issue (m : Bool) (s : State) : (countOpen m s).issue = s.issue := rfl
@[simp] theorem countOpen_false (s : State) : countOpen false s = s := rfl
@[simp] theorem countOpen_readReg (m : Bool) (s : State) (r : Reg) : (countOpen m s).readReg r = s.readReg r := by
  cases r <;> rfl

/-! ### store and put: the fields no register write touches -/

@[simp] theorem store_cfg (s : State) (r : Reg) (v : Val) : (s.store v r).cfg = s.cfg := by
  cases r <;> rfl
@[simp] theorem store_pins (s : State) (r : Reg) (v : Val) : (s.store v r).pins = s.pins := by
  cases r <;> rfl
@[simp] theorem store_sdoDir (s : State) (r : Reg) (v : Val) : (s.store v r).sdoDir = s.sdoDir := by
  cases r <;> rfl
@[simp] theorem store_pc (s : State) (r : Reg) (v : Val) : (s.store v r).pc = s.pc := by
  cases r <;> rfl
@[simp] theorem store_now (s : State) (r : Reg) (v : Val) : (s.store v r).now = s.now := by
  cases r <;> rfl
@[simp] theorem store_trace (s : State) (r : Reg) (v : Val) : (s.store v r).trace = s.trace := by
  cases r <;> rfl
@[simp] theorem store_env (s : State) (r : Reg) (v : Val) : (s.store v r).env = s.env := by
  cases r <;> rfl
@[simp] theorem store_host (s : State) (r : Reg) (v : Val) : (s.store v r).host = s.host := by
  cases r <;> rfl
@[simp] theorem store_issue (s : State) (r : Reg) (v : Val) : (s.store v r).issue = s.issue := by
  cases r <;> rfl
@[simp] theorem put_cfg (s : State) (r : Reg) (v : Val) : (s.put r v).cfg = s.cfg := by
  cases r <;> rfl
@[simp] theorem put_pins (s : State) (r : Reg) (v : Val) : (s.put r v).pins = s.pins := by
  cases r <;> rfl
@[simp] theorem put_sdoDir (s : State) (r : Reg) (v : Val) : (s.put r v).sdoDir = s.sdoDir := by
  cases r <;> rfl
@[simp] theorem put_pc (s : State) (r : Reg) (v : Val) : (s.put r v).pc = s.pc := by
  cases r <;> rfl
@[simp] theorem put_now (s : State) (r : Reg) (v : Val) : (s.put r v).now = s.now := by
  cases r <;> rfl
@[simp] theorem put_trace (s : State) (r : Reg) (v : Val) : (s.put r v).trace = s.trace := by
  cases r <;> rfl
@[simp] theorem put_env (s : State) (r : Reg) (v : Val) : (s.put r v).env = s.env := by
  cases r <;> rfl
@[simp] theorem put_host (s : State) (r : Reg) (v : Val) : (s.put r v).host = s.host := by
  cases r <;> rfl
@[simp] theorem put_issue (s : State) (r : Reg) (v : Val) : (s.put r v).issue = s.issue := by
  cases r <;> rfl
@[simp] theorem store_readUnwritten (s : State) (r : Reg) (v : Val) :
    (s.store v r).readUnwritten = s.readUnwritten := by
  cases r <;> rfl
@[simp] theorem put_readUnwritten (s : State) (r : Reg) (v : Val) : (s.put r v).readUnwritten = s.readUnwritten := by
  cases r <;> rfl
@[simp] theorem store_unwritten (s : State) (r : Reg) (v : Val) : (s.store v r).unwritten = s.unwritten := by
  cases r <;> rfl
@[simp] theorem put_unwritten (s : State) (r : Reg) (v : Val) :
    (s.put r v).unwritten = s.unwritten.filter fun x => x ≠ r := by
  cases r <;> rfl

/-! ### put: the fields of each register -/

@[simp] theorem put_dout_link (s : State) (v : Val) : (s.put .dout v).link = { s.link with dout := BitVec.ofNat frameBits v.toNat } := rfl
@[simp] theorem put_dout_wait (s : State) (v : Val) : (s.put .dout v).wait = s.wait := rfl
@[simp] theorem put_dout_ident (s : State) (v : Val) : (s.put .dout v).ident = s.ident := rfl
@[simp] theorem put_dout_sess (s : State) (v : Val) : (s.put .dout v).sess = s.sess := rfl
@[simp] theorem put_dout_outcome (s : State) (v : Val) : (s.put .dout v).outcome = s.outcome := rfl
@[simp] theorem put_iout_link (s : State) (v : Val) : (s.put .iout v).link = { s.link with iout := BitVec.ofNat frameBits v.toNat } := rfl
@[simp] theorem put_iout_wait (s : State) (v : Val) : (s.put .iout v).wait = s.wait := rfl
@[simp] theorem put_iout_ident (s : State) (v : Val) : (s.put .iout v).ident = s.ident := rfl
@[simp] theorem put_iout_sess (s : State) (v : Val) : (s.put .iout v).sess = s.sess := rfl
@[simp] theorem put_iout_outcome (s : State) (v : Val) : (s.put .iout v).outcome = s.outcome := rfl
@[simp] theorem put_acc_link (s : State) (v : Val) : (s.put .acc v).link = { s.link with acc := BitVec.ofNat frameBits v.toNat } := rfl
@[simp] theorem put_acc_wait (s : State) (v : Val) : (s.put .acc v).wait = s.wait := rfl
@[simp] theorem put_acc_ident (s : State) (v : Val) : (s.put .acc v).ident = s.ident := rfl
@[simp] theorem put_acc_sess (s : State) (v : Val) : (s.put .acc v).sess = s.sess := rfl
@[simp] theorem put_acc_outcome (s : State) (v : Val) : (s.put .acc v).outcome = s.outcome := rfl
@[simp] theorem put_bidx_link (s : State) (v : Val) : (s.put .bidx v).link = { s.link with bidx := v.toIndex } := rfl
@[simp] theorem put_bidx_wait (s : State) (v : Val) : (s.put .bidx v).wait = s.wait := rfl
@[simp] theorem put_bidx_ident (s : State) (v : Val) : (s.put .bidx v).ident = s.ident := rfl
@[simp] theorem put_bidx_sess (s : State) (v : Val) : (s.put .bidx v).sess = s.sess := rfl
@[simp] theorem put_bidx_outcome (s : State) (v : Val) : (s.put .bidx v).outcome = s.outcome := rfl
@[simp] theorem put_rbyte_link (s : State) (v : Val) : (s.put .rbyte v).link = { s.link with rbyte := BitVec.ofNat dataBits v.toNat } := rfl
@[simp] theorem put_rbyte_wait (s : State) (v : Val) : (s.put .rbyte v).wait = s.wait := rfl
@[simp] theorem put_rbyte_ident (s : State) (v : Val) : (s.put .rbyte v).ident = s.ident := rfl
@[simp] theorem put_rbyte_sess (s : State) (v : Val) : (s.put .rbyte v).sess = s.sess := rfl
@[simp] theorem put_rbyte_outcome (s : State) (v : Val) : (s.put .rbyte v).outcome = s.outcome := rfl
@[simp] theorem put_wstart_link (s : State) (v : Val) : (s.put .wstart v).link = s.link := rfl
@[simp] theorem put_wstart_wait (s : State) (v : Val) : (s.put .wstart v).wait = { s.wait with wstart := v.toNat } := rfl
@[simp] theorem put_wstart_ident (s : State) (v : Val) : (s.put .wstart v).ident = s.ident := rfl
@[simp] theorem put_wstart_sess (s : State) (v : Val) : (s.put .wstart v).sess = s.sess := rfl
@[simp] theorem put_wstart_outcome (s : State) (v : Val) : (s.put .wstart v).outcome = s.outcome := rfl
@[simp] theorem put_wres_link (s : State) (v : Val) : (s.put .wres v).link = s.link := rfl
@[simp] theorem put_wres_wait (s : State) (v : Val) : (s.put .wres v).wait = { s.wait with wres := v.toWaitResult } := rfl
@[simp] theorem put_wres_ident (s : State) (v : Val) : (s.put .wres v).ident = s.ident := rfl
@[simp] theorem put_wres_sess (s : State) (v : Val) : (s.put .wres v).sess = s.sess := rfl
@[simp] theorem put_wres_outcome (s : State) (v : Val) : (s.put .wres v).outcome = s.outcome := rfl
@[simp] theorem put_sig_link (s : State) (v : Val) : (s.put .sig v).link = s.link := rfl
@[simp] theorem put_sig_wait (s : State) (v : Val) : (s.put .sig v).wait = s.wait := rfl
@[simp] theorem put_sig_ident (s : State) (v : Val) : (s.put .sig v).ident = { s.ident with sig := BitVec.ofNat sigBits v.toNat } := rfl
@[simp] theorem put_sig_sess (s : State) (v : Val) : (s.put .sig v).sess = s.sess := rfl
@[simp] theorem put_sig_outcome (s : State) (v : Val) : (s.put .sig v).outcome = s.outcome := rfl
@[simp] theorem put_desc_link (s : State) (v : Val) : (s.put .desc v).link = s.link := rfl
@[simp] theorem put_desc_wait (s : State) (v : Val) : (s.put .desc v).wait = s.wait := rfl
@[simp] theorem put_desc_ident (s : State) (v : Val) : (s.put .desc v).ident = { s.ident with desc := v.toDevice } := rfl
@[simp] theorem put_desc_sess (s : State) (v : Val) : (s.put .desc v).sess = s.sess := rfl
@[simp] theorem put_desc_outcome (s : State) (v : Val) : (s.put .desc v).outcome = s.outcome := rfl
@[simp] theorem put_action_link (s : State) (v : Val) : (s.put .action v).link = s.link := rfl
@[simp] theorem put_action_wait (s : State) (v : Val) : (s.put .action v).wait = s.wait := rfl
@[simp] theorem put_action_ident (s : State) (v : Val) : (s.put .action v).ident = s.ident := rfl
@[simp] theorem put_action_sess (s : State) (v : Val) : (s.put .action v).sess = { s.sess with action := v.toAction } := rfl
@[simp] theorem put_action_outcome (s : State) (v : Val) : (s.put .action v).outcome = s.outcome := rfl
@[simp] theorem put_locked0_link (s : State) (v : Val) : (s.put .locked0 v).link = s.link := rfl
@[simp] theorem put_locked0_wait (s : State) (v : Val) : (s.put .locked0 v).wait = s.wait := rfl
@[simp] theorem put_locked0_ident (s : State) (v : Val) : (s.put .locked0 v).ident = s.ident := rfl
@[simp] theorem put_locked0_sess (s : State) (v : Val) : (s.put .locked0 v).sess = { s.sess with locked0 := v.toFlag } := rfl
@[simp] theorem put_locked0_outcome (s : State) (v : Val) : (s.put .locked0 v).outcome = s.outcome := rfl
@[simp] theorem put_erased_link (s : State) (v : Val) : (s.put .erased v).link = s.link := rfl
@[simp] theorem put_erased_wait (s : State) (v : Val) : (s.put .erased v).wait = s.wait := rfl
@[simp] theorem put_erased_ident (s : State) (v : Val) : (s.put .erased v).ident = s.ident := rfl
@[simp] theorem put_erased_sess (s : State) (v : Val) : (s.put .erased v).sess = { s.sess with erased := v.toFlag } := rfl
@[simp] theorem put_erased_outcome (s : State) (v : Val) : (s.put .erased v).outcome = s.outcome := rfl
@[simp] theorem put_escalated_link (s : State) (v : Val) : (s.put .escalated v).link = s.link := rfl
@[simp] theorem put_escalated_wait (s : State) (v : Val) : (s.put .escalated v).wait = s.wait := rfl
@[simp] theorem put_escalated_ident (s : State) (v : Val) : (s.put .escalated v).ident = s.ident := rfl
@[simp] theorem put_escalated_sess (s : State) (v : Val) : (s.put .escalated v).sess = { s.sess with escalated := v.toFlag } := rfl
@[simp] theorem put_escalated_outcome (s : State) (v : Val) : (s.put .escalated v).outcome = s.outcome := rfl
@[simp] theorem put_wrote_link (s : State) (v : Val) : (s.put .wrote v).link = s.link := rfl
@[simp] theorem put_wrote_wait (s : State) (v : Val) : (s.put .wrote v).wait = s.wait := rfl
@[simp] theorem put_wrote_ident (s : State) (v : Val) : (s.put .wrote v).ident = s.ident := rfl
@[simp] theorem put_wrote_sess (s : State) (v : Val) : (s.put .wrote v).sess = { s.sess with wrote := v.toFlag } := rfl
@[simp] theorem put_wrote_outcome (s : State) (v : Val) : (s.put .wrote v).outcome = s.outcome := rfl
@[simp] theorem put_oValid_link (s : State) (v : Val) : (s.put .oValid v).link = s.link := rfl
@[simp] theorem put_oValid_wait (s : State) (v : Val) : (s.put .oValid v).wait = s.wait := rfl
@[simp] theorem put_oValid_ident (s : State) (v : Val) : (s.put .oValid v).ident = s.ident := rfl
@[simp] theorem put_oValid_sess (s : State) (v : Val) : (s.put .oValid v).sess = s.sess := rfl
@[simp] theorem put_oValid_outcome (s : State) (v : Val) : (s.put .oValid v).outcome = { s.outcome with valid := v.toFlag } := rfl
@[simp] theorem put_oAction_link (s : State) (v : Val) : (s.put .oAction v).link = s.link := rfl
@[simp] theorem put_oAction_wait (s : State) (v : Val) : (s.put .oAction v).wait = s.wait := rfl
@[simp] theorem put_oAction_ident (s : State) (v : Val) : (s.put .oAction v).ident = s.ident := rfl
@[simp] theorem put_oAction_sess (s : State) (v : Val) : (s.put .oAction v).sess = s.sess := rfl
@[simp] theorem put_oAction_outcome (s : State) (v : Val) : (s.put .oAction v).outcome = { s.outcome with action := v.toAction } := rfl
@[simp] theorem put_oSignature_link (s : State) (v : Val) : (s.put .oSignature v).link = s.link := rfl
@[simp] theorem put_oSignature_wait (s : State) (v : Val) : (s.put .oSignature v).wait = s.wait := rfl
@[simp] theorem put_oSignature_ident (s : State) (v : Val) : (s.put .oSignature v).ident = s.ident := rfl
@[simp] theorem put_oSignature_sess (s : State) (v : Val) : (s.put .oSignature v).sess = s.sess := rfl
@[simp] theorem put_oSignature_outcome (s : State) (v : Val) : (s.put .oSignature v).outcome = { s.outcome with signature := v.toSignature? } := rfl
@[simp] theorem put_oDevice_link (s : State) (v : Val) : (s.put .oDevice v).link = s.link := rfl
@[simp] theorem put_oDevice_wait (s : State) (v : Val) : (s.put .oDevice v).wait = s.wait := rfl
@[simp] theorem put_oDevice_ident (s : State) (v : Val) : (s.put .oDevice v).ident = s.ident := rfl
@[simp] theorem put_oDevice_sess (s : State) (v : Val) : (s.put .oDevice v).sess = s.sess := rfl
@[simp] theorem put_oDevice_outcome (s : State) (v : Val) : (s.put .oDevice v).outcome = { s.outcome with device := v.toDevice? } := rfl
@[simp] theorem put_oErased_link (s : State) (v : Val) : (s.put .oErased v).link = s.link := rfl
@[simp] theorem put_oErased_wait (s : State) (v : Val) : (s.put .oErased v).wait = s.wait := rfl
@[simp] theorem put_oErased_ident (s : State) (v : Val) : (s.put .oErased v).ident = s.ident := rfl
@[simp] theorem put_oErased_sess (s : State) (v : Val) : (s.put .oErased v).sess = s.sess := rfl
@[simp] theorem put_oErased_outcome (s : State) (v : Val) : (s.put .oErased v).outcome = { s.outcome with erased := v.toFlag } := rfl
@[simp] theorem put_oEscalated_link (s : State) (v : Val) : (s.put .oEscalated v).link = s.link := rfl
@[simp] theorem put_oEscalated_wait (s : State) (v : Val) : (s.put .oEscalated v).wait = s.wait := rfl
@[simp] theorem put_oEscalated_ident (s : State) (v : Val) : (s.put .oEscalated v).ident = s.ident := rfl
@[simp] theorem put_oEscalated_sess (s : State) (v : Val) : (s.put .oEscalated v).sess = s.sess := rfl
@[simp] theorem put_oEscalated_outcome (s : State) (v : Val) : (s.put .oEscalated v).outcome = { s.outcome with escalated := v.toFlag } := rfl
@[simp] theorem put_oWrote_link (s : State) (v : Val) : (s.put .oWrote v).link = s.link := rfl
@[simp] theorem put_oWrote_wait (s : State) (v : Val) : (s.put .oWrote v).wait = s.wait := rfl
@[simp] theorem put_oWrote_ident (s : State) (v : Val) : (s.put .oWrote v).ident = s.ident := rfl
@[simp] theorem put_oWrote_sess (s : State) (v : Val) : (s.put .oWrote v).sess = s.sess := rfl
@[simp] theorem put_oWrote_outcome (s : State) (v : Val) : (s.put .oWrote v).outcome = { s.outcome with wrote := v.toFlag } := rfl
@[simp] theorem put_oLb1_link (s : State) (v : Val) : (s.put .oLb1 v).link = s.link := rfl
@[simp] theorem put_oLb1_wait (s : State) (v : Val) : (s.put .oLb1 v).wait = s.wait := rfl
@[simp] theorem put_oLb1_ident (s : State) (v : Val) : (s.put .oLb1 v).ident = s.ident := rfl
@[simp] theorem put_oLb1_sess (s : State) (v : Val) : (s.put .oLb1 v).sess = s.sess := rfl
@[simp] theorem put_oLb1_outcome (s : State) (v : Val) : (s.put .oLb1 v).outcome = { s.outcome with lb1 := v.toFlag? } := rfl
@[simp] theorem put_oLb2_link (s : State) (v : Val) : (s.put .oLb2 v).link = s.link := rfl
@[simp] theorem put_oLb2_wait (s : State) (v : Val) : (s.put .oLb2 v).wait = s.wait := rfl
@[simp] theorem put_oLb2_ident (s : State) (v : Val) : (s.put .oLb2 v).ident = s.ident := rfl
@[simp] theorem put_oLb2_sess (s : State) (v : Val) : (s.put .oLb2 v).sess = s.sess := rfl
@[simp] theorem put_oLb2_outcome (s : State) (v : Val) : (s.put .oLb2 v).outcome = { s.outcome with lb2 := v.toFlag? } := rfl
@[simp] theorem put_oLocked0_link (s : State) (v : Val) : (s.put .oLocked0 v).link = s.link := rfl
@[simp] theorem put_oLocked0_wait (s : State) (v : Val) : (s.put .oLocked0 v).wait = s.wait := rfl
@[simp] theorem put_oLocked0_ident (s : State) (v : Val) : (s.put .oLocked0 v).ident = s.ident := rfl
@[simp] theorem put_oLocked0_sess (s : State) (v : Val) : (s.put .oLocked0 v).sess = s.sess := rfl
@[simp] theorem put_oLocked0_outcome (s : State) (v : Val) : (s.put .oLocked0 v).outcome = { s.outcome with locked0 := v.toFlag? } := rfl
@[simp] theorem put_oLocked1_link (s : State) (v : Val) : (s.put .oLocked1 v).link = s.link := rfl
@[simp] theorem put_oLocked1_wait (s : State) (v : Val) : (s.put .oLocked1 v).wait = s.wait := rfl
@[simp] theorem put_oLocked1_ident (s : State) (v : Val) : (s.put .oLocked1 v).ident = s.ident := rfl
@[simp] theorem put_oLocked1_sess (s : State) (v : Val) : (s.put .oLocked1 v).sess = s.sess := rfl
@[simp] theorem put_oLocked1_outcome (s : State) (v : Val) : (s.put .oLocked1 v).outcome = { s.outcome with locked1 := v.toFlag? } := rfl
@[simp] theorem put_oFuseL0_link (s : State) (v : Val) : (s.put .oFuseL0 v).link = s.link := rfl
@[simp] theorem put_oFuseL0_wait (s : State) (v : Val) : (s.put .oFuseL0 v).wait = s.wait := rfl
@[simp] theorem put_oFuseL0_ident (s : State) (v : Val) : (s.put .oFuseL0 v).ident = s.ident := rfl
@[simp] theorem put_oFuseL0_sess (s : State) (v : Val) : (s.put .oFuseL0 v).sess = s.sess := rfl
@[simp] theorem put_oFuseL0_outcome (s : State) (v : Val) : (s.put .oFuseL0 v).outcome = { s.outcome with fuseL0 := v.toByte? } := rfl
@[simp] theorem put_oFuseH0_link (s : State) (v : Val) : (s.put .oFuseH0 v).link = s.link := rfl
@[simp] theorem put_oFuseH0_wait (s : State) (v : Val) : (s.put .oFuseH0 v).wait = s.wait := rfl
@[simp] theorem put_oFuseH0_ident (s : State) (v : Val) : (s.put .oFuseH0 v).ident = s.ident := rfl
@[simp] theorem put_oFuseH0_sess (s : State) (v : Val) : (s.put .oFuseH0 v).sess = s.sess := rfl
@[simp] theorem put_oFuseH0_outcome (s : State) (v : Val) : (s.put .oFuseH0 v).outcome = { s.outcome with fuseH0 := v.toByte? } := rfl
@[simp] theorem put_oFuseE0_link (s : State) (v : Val) : (s.put .oFuseE0 v).link = s.link := rfl
@[simp] theorem put_oFuseE0_wait (s : State) (v : Val) : (s.put .oFuseE0 v).wait = s.wait := rfl
@[simp] theorem put_oFuseE0_ident (s : State) (v : Val) : (s.put .oFuseE0 v).ident = s.ident := rfl
@[simp] theorem put_oFuseE0_sess (s : State) (v : Val) : (s.put .oFuseE0 v).sess = s.sess := rfl
@[simp] theorem put_oFuseE0_outcome (s : State) (v : Val) : (s.put .oFuseE0 v).outcome = { s.outcome with fuseE0 := v.toByte? } := rfl
@[simp] theorem put_oLockRaw0_link (s : State) (v : Val) : (s.put .oLockRaw0 v).link = s.link := rfl
@[simp] theorem put_oLockRaw0_wait (s : State) (v : Val) : (s.put .oLockRaw0 v).wait = s.wait := rfl
@[simp] theorem put_oLockRaw0_ident (s : State) (v : Val) : (s.put .oLockRaw0 v).ident = s.ident := rfl
@[simp] theorem put_oLockRaw0_sess (s : State) (v : Val) : (s.put .oLockRaw0 v).sess = s.sess := rfl
@[simp] theorem put_oLockRaw0_outcome (s : State) (v : Val) : (s.put .oLockRaw0 v).outcome = { s.outcome with lockRaw0 := v.toByte? } := rfl
@[simp] theorem put_oWrittenL_link (s : State) (v : Val) : (s.put .oWrittenL v).link = s.link := rfl
@[simp] theorem put_oWrittenL_wait (s : State) (v : Val) : (s.put .oWrittenL v).wait = s.wait := rfl
@[simp] theorem put_oWrittenL_ident (s : State) (v : Val) : (s.put .oWrittenL v).ident = s.ident := rfl
@[simp] theorem put_oWrittenL_sess (s : State) (v : Val) : (s.put .oWrittenL v).sess = s.sess := rfl
@[simp] theorem put_oWrittenL_outcome (s : State) (v : Val) : (s.put .oWrittenL v).outcome = { s.outcome with writtenL := v.toByte? } := rfl
@[simp] theorem put_oWrittenH_link (s : State) (v : Val) : (s.put .oWrittenH v).link = s.link := rfl
@[simp] theorem put_oWrittenH_wait (s : State) (v : Val) : (s.put .oWrittenH v).wait = s.wait := rfl
@[simp] theorem put_oWrittenH_ident (s : State) (v : Val) : (s.put .oWrittenH v).ident = s.ident := rfl
@[simp] theorem put_oWrittenH_sess (s : State) (v : Val) : (s.put .oWrittenH v).sess = s.sess := rfl
@[simp] theorem put_oWrittenH_outcome (s : State) (v : Val) : (s.put .oWrittenH v).outcome = { s.outcome with writtenH := v.toByte? } := rfl
@[simp] theorem put_oWrittenE_link (s : State) (v : Val) : (s.put .oWrittenE v).link = s.link := rfl
@[simp] theorem put_oWrittenE_wait (s : State) (v : Val) : (s.put .oWrittenE v).wait = s.wait := rfl
@[simp] theorem put_oWrittenE_ident (s : State) (v : Val) : (s.put .oWrittenE v).ident = s.ident := rfl
@[simp] theorem put_oWrittenE_sess (s : State) (v : Val) : (s.put .oWrittenE v).sess = s.sess := rfl
@[simp] theorem put_oWrittenE_outcome (s : State) (v : Val) : (s.put .oWrittenE v).outcome = { s.outcome with writtenE := v.toByte? } := rfl
@[simp] theorem put_oFuseL1_link (s : State) (v : Val) : (s.put .oFuseL1 v).link = s.link := rfl
@[simp] theorem put_oFuseL1_wait (s : State) (v : Val) : (s.put .oFuseL1 v).wait = s.wait := rfl
@[simp] theorem put_oFuseL1_ident (s : State) (v : Val) : (s.put .oFuseL1 v).ident = s.ident := rfl
@[simp] theorem put_oFuseL1_sess (s : State) (v : Val) : (s.put .oFuseL1 v).sess = s.sess := rfl
@[simp] theorem put_oFuseL1_outcome (s : State) (v : Val) : (s.put .oFuseL1 v).outcome = { s.outcome with fuseL1 := v.toByte? } := rfl
@[simp] theorem put_oFuseH1_link (s : State) (v : Val) : (s.put .oFuseH1 v).link = s.link := rfl
@[simp] theorem put_oFuseH1_wait (s : State) (v : Val) : (s.put .oFuseH1 v).wait = s.wait := rfl
@[simp] theorem put_oFuseH1_ident (s : State) (v : Val) : (s.put .oFuseH1 v).ident = s.ident := rfl
@[simp] theorem put_oFuseH1_sess (s : State) (v : Val) : (s.put .oFuseH1 v).sess = s.sess := rfl
@[simp] theorem put_oFuseH1_outcome (s : State) (v : Val) : (s.put .oFuseH1 v).outcome = { s.outcome with fuseH1 := v.toByte? } := rfl
@[simp] theorem put_oFuseE1_link (s : State) (v : Val) : (s.put .oFuseE1 v).link = s.link := rfl
@[simp] theorem put_oFuseE1_wait (s : State) (v : Val) : (s.put .oFuseE1 v).wait = s.wait := rfl
@[simp] theorem put_oFuseE1_ident (s : State) (v : Val) : (s.put .oFuseE1 v).ident = s.ident := rfl
@[simp] theorem put_oFuseE1_sess (s : State) (v : Val) : (s.put .oFuseE1 v).sess = s.sess := rfl
@[simp] theorem put_oFuseE1_outcome (s : State) (v : Val) : (s.put .oFuseE1 v).outcome = { s.outcome with fuseE1 := v.toByte? } := rfl
@[simp] theorem put_oLockRaw1_link (s : State) (v : Val) : (s.put .oLockRaw1 v).link = s.link := rfl
@[simp] theorem put_oLockRaw1_wait (s : State) (v : Val) : (s.put .oLockRaw1 v).wait = s.wait := rfl
@[simp] theorem put_oLockRaw1_ident (s : State) (v : Val) : (s.put .oLockRaw1 v).ident = s.ident := rfl
@[simp] theorem put_oLockRaw1_sess (s : State) (v : Val) : (s.put .oLockRaw1 v).sess = s.sess := rfl
@[simp] theorem put_oLockRaw1_outcome (s : State) (v : Val) : (s.put .oLockRaw1 v).outcome = { s.outcome with lockRaw1 := v.toByte? } := rfl

/-! ### values -/

@[simp] theorem toNat_ofBits {w : Nat} (b : BitVec w) : (Val.ofBits b).toNat = b.toNat := rfl
@[simp] theorem toNat_num (n : Nat) : (Val.num n).toNat = n := rfl
@[simp] theorem toFlag_flag (b : Bool) : (Val.flag b).toFlag = b := by cases b <;> rfl
@[simp] theorem toIndex_index (j : BitIdx) : (Val.index j).toIndex = j := by
  simp [Val.index, Val.toIndex]
@[simp] theorem toWaitResult_waitResult (r : WaitResult) : (Val.waitResult r).toWaitResult = r := rfl
@[simp] theorem toDevice_device (d : Option DescIdx) : (Val.device d).toDevice = d := by cases d <;> rfl
@[simp] theorem toAction_action (a : Action) : (Val.action a).toAction = a := rfl
@[simp] theorem toByte?_ofBits (b : Byte) : (Val.ofBits b).toByte? = some b := by
  simp [Val.ofBits, Val.toByte?, Val.toOpt, Val.toByte]
@[simp] theorem toSignature?_ofBits (b : Signature) : (Val.ofBits b).toSignature? = some b := by
  simp [Val.ofBits, Val.toSignature?, Val.toOpt, Val.toSignature]
@[simp] theorem toFlag?_flag (b : Bool) : (Val.flag b).toFlag? = some b := by cases b <;> rfl
@[simp] theorem toDevice?_device (d : Option DescIdx) : (Val.device d).toDevice? = some d := by cases d <;> rfl
@[simp] theorem toByte?_absent : Val.absent.toByte? = none := rfl
@[simp] theorem toSignature?_absent : Val.absent.toSignature? = none := rfl
@[simp] theorem toFlag?_absent : Val.absent.toFlag? = none := rfl
@[simp] theorem toDevice?_absent : Val.absent.toDevice? = none := rfl

/-! ### lines -/

@[simp] theorem set_rst (l : Lines) (b : Bool) : l.set b .rst = { l with rst := b } := rfl
@[simp] theorem set_vcc (l : Lines) (b : Bool) : l.set b .vcc = { l with vcc := b } := rfl
@[simp] theorem set_sci (l : Lines) (b : Bool) : l.set b .sci = { l with sci := b } := rfl
@[simp] theorem set_sii (l : Lines) (b : Bool) : l.set b .sii = { l with sii := b } := rfl
@[simp] theorem set_sdi (l : Lines) (b : Bool) : l.set b .sdi = { l with sdi := b } := rfl
@[simp] theorem set_sdoOut (l : Lines) (b : Bool) : l.set b .sdoOut = { l with sdoOut := b } := rfl

theorem get_set_same (l : Lines) (b : Bool) (r : Role) : (l.set b r).get r = b := by
  cases r <;> rfl

theorem get_set_other (l : Lines) (b : Bool) {r q : Role} (h : q ≠ r) : (l.set b r).get q = l.get q := by
  cases r <;> cases q <;> first | rfl | exact absurd rfl h

end Sys2Proof.Machine
end

