-- ==== Sys2Proof/Laws/Guards.lean ====
section
/-! SUPPORT. What the guards of Machine/Ops.lean answer, said once: cite these instead of unfolding a guard. -/

namespace Sys2Proof.Machine

@[simp] theorem whenConfigured_ok {s : State} (h : configOk s.cfg = true) (r : Result) :
    whenConfigured s r = r := by
  simp [whenConfigured, h]

@[simp] theorem whenConfigured_bad {s : State} (h : configOk s.cfg = false) (r : Result) :
    whenConfigured s r = .refused .badConfig := by
  simp [whenConfigured, h]

/-- A guard on the configuration lets a next state through only from a valid one. -/
theorem whenConfigured_next {s t : State} {r : Result} (h : whenConfigured s r = .next t) :
    configOk s.cfg = true ∧ r = .next t := by
  unfold whenConfigured at h
  split at h
  · exact ⟨‹_›, h⟩
  · cases h

@[simp] theorem whenSampling_input {s : State} (h : s.sdoDir = .input) (r : Result) : whenSampling s r = r := by
  simp [whenSampling, h]

@[simp] theorem whenSampling_output {s : State} (h : s.sdoDir = .output) (r : Result) :
    whenSampling s r = .fault .sampleWhileOutput := by
  simp [whenSampling, h]

/-- A guard on the direction lets a next state through only while the data-out line is an input. -/
theorem whenSampling_next {s t : State} {r : Result} (h : whenSampling s r = .next t) :
    s.sdoDir = .input ∧ r = .next t := by
  unfold whenSampling at h
  split at h
  · exact ⟨‹_›, h⟩
  · cases h

/-- Whether some register of a list is still unwritten. -/
theorem any_unwritten_iff (u rs : List Reg) : (rs.any fun r => u.contains r) = true ↔ ∃ r ∈ rs, r ∈ u := by
  simp

/-- When the fault `ReadUnwritten` is recorded after some reads (70_reset_and_hazards.md R292). -/
theorem noteReads_recorded_iff {rs : List Reg} {s : State} :
    (noteReads rs s).readUnwritten = true ↔ s.readUnwritten = true ∨ ∃ r ∈ rs, r ∈ s.unwritten := by
  rw [noteReads_readUnwritten, Bool.or_eq_true, any_unwritten_iff]

/-- A read of registers that have all been written changes nothing. -/
theorem noteReads_of_written {rs : List Reg} {s : State} (h : ∀ r ∈ rs, r ∉ s.unwritten) : noteReads rs s = s := by
  have hf : (rs.any fun r => s.unwritten.contains r) = false :=
    Bool.eq_false_iff.2 fun ht => by
      obtain ⟨r, hr, hu⟩ := (any_unwritten_iff _ _).1 ht
      exact h r hr hu
  rw [noteReads, hf, Bool.or_false]

/-- A fault that is recorded stays recorded (60_exceptions.md R263). -/
theorem noteReads_keeps {rs : List Reg} {s : State} (h : s.readUnwritten = true) :
    (noteReads rs s).readUnwritten = true :=
  noteReads_recorded_iff.2 (.inl h)

/-- A valid configuration polls at least one nanosecond apart (60_exceptions.md R265). -/
theorem pollMin_ne_zero {c : Config} (h : configOk c = true) : c.timing.pollMin ≠ 0 := by
  simp only [configOk, Bool.and_eq_true, bne_iff_ne] at h
  exact h.2

/-- The widths of a valid configuration (00_scope.md R10, R11; log 31). -/
theorem widths_of_configOk {c : Config} (h : configOk c = true) :
    c.widths.frameBits = frameBits ∧ c.widths.dataBits = dataBits ∧ c.widths.sigBits = sigBits ∧
      c.widths.padLead + dataBits + c.widths.padTrail = frameBits ∧ c.widths.padLead ≠ 0 ∧ c.widths.padTrail ≠ 0 := by
  simp only [configOk, widthsOk, Bool.and_eq_true, beq_iff_eq, bne_iff_ne] at h
  obtain ⟨⟨⟨⟨⟨⟨⟨⟨⟨⟨h1, h2⟩, h3⟩, h4⟩, h5⟩, h6⟩, -⟩, -⟩, -⟩, -⟩, -⟩ := h
  rw [h1, h2] at h4
  exact ⟨h1, h2, h3, h4, h5, h6⟩

/-- The frame bits of a valid configuration, in the order they are shifted (20_memory.md R63). -/
theorem frameBitOrder_of_configOk {c : Config} (h : configOk c = true) :
    frameBitOrder c.widths = [10, 9, 8, 7, 6, 5, 4, 3, 2, 1, 0] := by
  rw [frameBitOrder, (widths_of_configOk h).1]
  rfl

/-- A frame ends with a low pad bit (30_encoding.md R80). -/
theorem frameOf_bit_zero {c : Config} (h : configOk c = true) (b : Byte) : (frameOf c.widths b)[0] = false := by
  have hp := Nat.pos_of_ne_zero (widths_of_configOk h).2.2.2.2.2
  simp [frameOf, hp]

end Sys2Proof.Machine
end

