-- ==== Sys2Proof/Laws/PerInstr.lean ====
section
/-! SUPPORT. Statements about every operation as syntax, one lemma per constructor of `Instr`. The family
`EncodingLength`: under a valid configuration an encoding has one, three, four or eight frame pairs
(30_encoding.md R86, R88; 40_link.md R110; 42_identify.md R162). -/

namespace Sys2Proof.Laws

open Sys2Proof.Machine

/-- A valid configuration's `CMD` has the shapes of 30_encoding.md R86 and R88. -/
theorem cmdOk_of_configOk {c : Config} (h : configOk c = true) : cmdOk c = true := by
  simp only [configOk, Bool.and_eq_true] at h
  exact h.1.1.2

theorem length_of_fixedShape {n : Nat} {es : List CmdEntry} (h : fixedShape n es = true) : es.length = n := by
  simp only [fixedShape, Bool.and_eq_true, beq_iff_eq] at h
  exact h.1

theorem length_of_operandShape {es : List CmdEntry} (h : operandShape es = true) : es.length = 4 := by
  match es, h with
  | [_, _, _, _], _ => rfl

/-- The lengths of the nine sequences of a valid `CMD` (30_encoding.md R86). -/
theorem cmd_lengths {c : Config} (h : configOk c = true) :
    c.cmd.rdsb.length = 4 ∧ c.cmd.rdL.length = 3 ∧ c.cmd.rdH.length = 3 ∧ c.cmd.rdE.length = 3 ∧
      c.cmd.rdLk.length = 3 ∧ c.cmd.wrL.length = 4 ∧ c.cmd.wrH.length = 4 ∧ c.cmd.wrE.length = 4 ∧
      c.cmd.erase.length = 3 := by
  have hc := cmdOk_of_configOk h
  simp only [cmdOk, Bool.and_eq_true] at hc
  obtain ⟨⟨⟨⟨⟨⟨⟨⟨h1, h2⟩, h3⟩, h4⟩, h5⟩, h6⟩, h7⟩, h8⟩, h9⟩ := hc
  exact ⟨length_of_operandShape h1, length_of_fixedShape h2, length_of_fixedShape h3, length_of_fixedShape h4,
    length_of_fixedShape h5, length_of_operandShape h6, length_of_operandShape h7, length_of_operandShape h8,
    length_of_fixedShape h9⟩

theorem length_rdsbPairs {c : Config} (h : configOk c = true) (idx : Byte) : (c.rdsbPairs idx).length = 4 := by
  simp [Config.rdsbPairs, (cmd_lengths h).1]

theorem length_readPairs {c : Config} (h : configOk c = true) (x : FuseSel) : (c.readPairs x).length = 3 := by
  obtain ⟨-, h1, h2, h3, -⟩ := cmd_lengths h
  cases x <;> simp [Config.readPairs, CmdTable.read, h1, h2, h3]

theorem length_lockPairs {c : Config} (h : configOk c = true) : c.lockPairs.length = 3 := by
  obtain ⟨-, -, -, -, h1, -⟩ := cmd_lengths h
  simp [Config.lockPairs, h1]

theorem length_writePairs {c : Config} (h : configOk c = true) (x : FuseSel) (v : Byte) :
    (c.writePairs x v).length = 4 := by
  obtain ⟨-, -, -, -, -, h1, h2, h3, -⟩ := cmd_lengths h
  cases x <;> simp [Config.writePairs, Config.writeEntries, CmdTable.write, h1, h2, h3]

theorem length_erasePairs {c : Config} (h : configOk c = true) : c.erasePairs.length = 3 := by
  obtain ⟨-, -, -, -, -, -, -, -, h1⟩ := cmd_lengths h
  simp [Config.erasePairs, h1]

/-- The encoding of an operation has a length that 30_encoding.md R86 gives an operation. -/
def EncodingLength.Statement (i : Instr) : Prop :=
  ∀ (c : Config) (ps : List FramePair), configOk c = true → encode c i = some ps → ps.length ∈ operationLengths

/-- An operation without an encoding meets the statement (30_encoding.md R94, R95). -/
theorem encodingLength_of_none {i : Instr} (h : ∀ c, encode c i = none) : EncodingLength.Statement i := by
  intro c ps _ he
  rw [h c] at he
  cases he

/-- An operation whose encodings all have the length `n` meets the statement. -/
theorem encodingLength_of_length {i : Instr} (n : Nat) (hn : n ∈ operationLengths)
    (h : ∀ c ps, configOk c = true → encode c i = some ps → ps.length = n) : EncodingLength.Statement i := by
  intro c ps hc he
  rw [h c ps hc he]
  exact hn

theorem EncodingLength.xfer (d i : Byte) : EncodingLength.Statement (.xfer d i) :=
  encodingLength_of_length 1 (by decide) fun _ _ _ he => by cases he; rfl
theorem EncodingLength.waitrdy : EncodingLength.Statement .waitrdy := encodingLength_of_none fun _ => rfl
theorem EncodingLength.pin (r : Role) (b : Bool) : EncodingLength.Statement (.pin r b) :=
  encodingLength_of_none fun _ => rfl
theorem EncodingLength.dir (d : Dir) : EncodingLength.Statement (.dir d) := encodingLength_of_none fun _ => rfl
theorem EncodingLength.delay (t : TimeParam) : EncodingLength.Statement (.delay t) :=
  encodingLength_of_none fun _ => rfl
theorem EncodingLength.sample : EncodingLength.Statement .sample := encodingLength_of_none fun _ => rfl
theorem EncodingLength.poll : EncodingLength.Statement .poll := encodingLength_of_none fun _ => rfl
theorem EncodingLength.set (as : List Assign) : EncodingLength.Statement (.set as) :=
  encodingLength_of_none fun _ => rfl
theorem EncodingLength.enter : EncodingLength.Statement .enter := encodingLength_of_none fun _ => rfl
theorem EncodingLength.exit : EncodingLength.Statement .exit := encodingLength_of_none fun _ => rfl
theorem EncodingLength.rdsb (idx : Byte) : EncodingLength.Statement (.rdsb idx) :=
  encodingLength_of_length 4 (by decide) fun _ _ hc he => by cases he; exact length_rdsbPairs hc idx
theorem EncodingLength.rdsig : EncodingLength.Statement .rdsig :=
  encodingLength_of_length 8 (by decide) fun _ _ hc he => by
    cases he
    simp [Config.rdsigPairs, Config.sigOrder, length_rdsbPairs hc]
theorem EncodingLength.classify (v : Option Signature) : EncodingLength.Statement (.classify v) :=
  encodingLength_of_none fun _ => rfl
theorem EncodingLength.rdfL : EncodingLength.Statement .rdfL :=
  encodingLength_of_length 3 (by decide) fun _ _ hc he => by cases he; exact length_readPairs hc .low
theorem EncodingLength.rdfH : EncodingLength.Statement .rdfH :=
  encodingLength_of_length 3 (by decide) fun _ _ hc he => by cases he; exact length_readPairs hc .high
theorem EncodingLength.rdfE : EncodingLength.Statement .rdfE :=
  encodingLength_of_length 3 (by decide) fun _ _ hc he => by cases he; exact length_readPairs hc .ext
theorem EncodingLength.rdlk : EncodingLength.Statement .rdlk :=
  encodingLength_of_length 3 (by decide) fun _ _ hc he => by cases he; exact length_lockPairs hc
theorem EncodingLength.wrfL (v : Byte) : EncodingLength.Statement (.wrfL v) :=
  encodingLength_of_length 4 (by decide) fun _ _ hc he => by cases he; exact length_writePairs hc .low v
theorem EncodingLength.wrfH (v : Byte) : EncodingLength.Statement (.wrfH v) :=
  encodingLength_of_length 4 (by decide) fun _ _ hc he => by cases he; exact length_writePairs hc .high v
theorem EncodingLength.wrfE (v : Byte) : EncodingLength.Statement (.wrfE v) :=
  encodingLength_of_length 4 (by decide) fun _ _ hc he => by cases he; exact length_writePairs hc .ext v
theorem EncodingLength.erase : EncodingLength.Statement .erase :=
  encodingLength_of_length 3 (by decide) fun _ _ hc he => by cases he; exact length_erasePairs hc
theorem EncodingLength.session (a : Option Action) : EncodingLength.Statement (.session a) :=
  encodingLength_of_none fun _ => rfl

end Sys2Proof.Laws
end

