-- ==== Sys2Proof/Laws/Steps.lean ====
section
/-! SUPPORT. What a step of the engine can do, said once (10_state.md R31; 45_session.md R220 to R224), and what each
micro-operation can do: cite these instead of unfolding `step` or a meaning. -/

namespace Sys2Proof.Machine

/-! ## Several register writes -/

@[simp] theorem putAll_nil (s : State) : s.putAll [] = s := rfl
@[simp] theorem putAll_cons (s : State) (w : Reg × Val) (ws : List (Reg × Val)) :
    s.putAll (w :: ws) = (s.put w.1 w.2).putAll ws := rfl

theorem putAll_append (s : State) (ws vs : List (Reg × Val)) : s.putAll (ws ++ vs) = (s.putAll ws).putAll vs := by
  simp [State.putAll]

@[simp] theorem putAll_cfg (s : State) (ws : List (Reg × Val)) : (s.putAll ws).cfg = s.cfg := by
  induction ws generalizing s with
  | nil => rfl
  | cons w ws ih => rw [putAll_cons, ih, put_cfg]
@[simp] theorem putAll_pins (s : State) (ws : List (Reg × Val)) : (s.putAll ws).pins = s.pins := by
  induction ws generalizing s with
  | nil => rfl
  | cons w ws ih => rw [putAll_cons, ih, put_pins]
@[simp] theorem putAll_sdoDir (s : State) (ws : List (Reg × Val)) : (s.putAll ws).sdoDir = s.sdoDir := by
  induction ws generalizing s with
  | nil => rfl
  | cons w ws ih => rw [putAll_cons, ih, put_sdoDir]
@[simp] theorem putAll_pc (s : State) (ws : List (Reg × Val)) : (s.putAll ws).pc = s.pc := by
  induction ws generalizing s with
  | nil => rfl
  | cons w ws ih => rw [putAll_cons, ih, put_pc]
@[simp] theorem putAll_now (s : State) (ws : List (Reg × Val)) : (s.putAll ws).now = s.now := by
  induction ws generalizing s with
  | nil => rfl
  | cons w ws ih => rw [putAll_cons, ih, put_now]
@[simp] theorem putAll_trace (s : State) (ws : List (Reg × Val)) : (s.putAll ws).trace = s.trace := by
  induction ws generalizing s with
  | nil => rfl
  | cons w ws ih => rw [putAll_cons, ih, put_trace]
@[simp] theorem putAll_env (s : State) (ws : List (Reg × Val)) : (s.putAll ws).env = s.env := by
  induction ws generalizing s with
  | nil => rfl
  | cons w ws ih => rw [putAll_cons, ih, put_env]
@[simp] theorem putAll_readUnwritten (s : State) (ws : List (Reg × Val)) :
    (s.putAll ws).readUnwritten = s.readUnwritten := by
  induction ws generalizing s with
  | nil => rfl
  | cons w ws ih => rw [putAll_cons, ih, put_readUnwritten]
@[simp] theorem putAll_host (s : State) (ws : List (Reg × Val)) : (s.putAll ws).host = s.host := by
  induction ws generalizing s with
  | nil => rfl
  | cons w ws ih => rw [putAll_cons, ih, put_host]
@[simp] theorem putAll_issue (s : State) (ws : List (Reg × Val)) : (s.putAll ws).issue = s.issue := by
  induction ws generalizing s with
  | nil => rfl
  | cons w ws ih => rw [putAll_cons, ih, put_issue]

/-- After several writes, exactly the registers not written stay unwritten. -/
theorem mem_putAll_unwritten {s : State} {ws : List (Reg × Val)} {r : Reg} :
    r ∈ (s.putAll ws).unwritten ↔ r ∈ s.unwritten ∧ r ∉ ws.map (·.1) := by
  induction ws generalizing s with
  | nil => simp
  | cons w ws ih =>
    rw [putAll_cons, ih, put_unwritten]
    simp only [List.mem_filter, decide_eq_true_eq, List.map_cons, List.mem_cons, not_or]
    tauto

/-- A write of one register leaves the value of every other as it was. -/
theorem readReg_put_other (s : State) (v : Val) {r q : Reg} (h : q ≠ r) : (s.put r v).readReg q = s.readReg q := by
  cases r <;> cases q <;> first | rfl | exact absurd rfl h

theorem readReg_putAll_other {s : State} {ws : List (Reg × Val)} {q : Reg} (h : q ∉ ws.map (·.1)) :
    (s.putAll ws).readReg q = s.readReg q := by
  induction ws generalizing s with
  | nil => rfl
  | cons w ws ih =>
    simp only [List.map_cons, List.mem_cons, not_or] at h
    rw [putAll_cons, ih h.2, readReg_put_other _ _ h.1]

/-! A value of a kind survives being stored and read back, kind by kind. -/

theorem bits_kind {w rows : Nat} {v : Val} (h : kindAccepts rows (.bits w) v = true) :
    Val.ofBits (BitVec.ofNat w v.toNat) = v := by
  cases v <;> simp_all [kindAccepts, Val.ofBits, Val.toNat, Nat.mod_eq_of_lt]

theorem flag_kind {rows : Nat} {v : Val} (h : kindAccepts rows (.bits 1) v = true) : Val.flag v.toFlag = v := by
  cases v with
  | num n =>
    have hn : n < 2 := of_decide_eq_true h
    interval_cases n <;> rfl
  | _ => cases h

theorem index_kind {rows : Nat} {v : Val} (h : kindAccepts rows .index v = true) : Val.index v.toIndex = v := by
  cases v with
  | num n => exact congrArg Val.num (Nat.mod_eq_of_lt (of_decide_eq_true h))
  | _ => cases h

theorem nat_kind {rows : Nat} {v : Val} (h : kindAccepts rows .nat v = true) : Val.num v.toNat = v := by
  cases v <;> first | rfl | cases h

theorem waitResult_kind {rows : Nat} {v : Val} (h : kindAccepts rows .waitResult v = true) :
    Val.waitResult v.toWaitResult = v := by
  cases v <;> first | rfl | cases h

theorem action_kind {rows : Nat} {v : Val} (h : kindAccepts rows .action v = true) : Val.action v.toAction = v := by
  cases v <;> first | rfl | cases h

theorem device_kind {rows : Nat} {v : Val} (h : kindAccepts rows .device v = true) : Val.device v.toDevice = v := by
  cases v <;> first | rfl | cases h

/-- A field that may be absent keeps what its kind keeps. -/
theorem opt_kind {α : Type} {rows : Nat} {k : Ty} {f : Val → α} {g : α → Val} {v : Val}
    (hf : ∀ v, kindAccepts rows k v = true → g (f v) = v) (h : kindAccepts rows (.opt k) v = true) :
    (v.toOpt f).elim .absent g = v := by
  cases v <;> first | rfl | exact hf _ h

/-- A register holds what was written to it, where that is a value of its kind (00_scope.md R14). -/
theorem readReg_put_same (s : State) {r : Reg} {v : Val} (h : kindAccepts s.cfg.nDesc r.ty v = true) :
    (s.put r v).readReg r = v :=
  match r with
  | .dout | .iout | .acc | .rbyte | .sig => bits_kind h
  | .bidx => index_kind h
  | .wstart => nat_kind h
  | .wres => waitResult_kind h
  | .desc => device_kind h
  | .action | .oAction => action_kind h
  | .locked0 | .erased | .escalated | .wrote | .oValid | .oErased | .oEscalated | .oWrote => flag_kind h
  | .oSignature => opt_kind (f := Val.toSignature) (fun _ => bits_kind) h
  | .oDevice => opt_kind (fun _ => device_kind) h
  | .oLb1 | .oLb2 | .oLocked0 | .oLocked1 => opt_kind (fun _ => flag_kind) h
  | .oFuseL0 | .oFuseH0 | .oFuseE0 | .oLockRaw0 | .oWrittenL | .oWrittenH | .oWrittenE | .oFuseL1 | .oFuseH1
  | .oFuseE1 | .oLockRaw1 => opt_kind (f := Val.toByte) (fun _ => bits_kind) h

/-! ## The micro-operations -/

theorem exec_pin_next {r : Role} {b : Bool} {s t : State} (h : exec (.pin r b) s = .next t) :
    configOk s.cfg = true ∧ t = pin r b s := by
  obtain ⟨h1, h2⟩ := whenConfigured_next h
  cases h2
  exact ⟨h1, rfl⟩

theorem exec_dir_next {d : Dir} {s t : State} (h : exec (.dir d) s = .next t) :
    configOk s.cfg = true ∧ t = setDir d s := by
  obtain ⟨h1, h2⟩ := whenConfigured_next h
  cases h2
  exact ⟨h1, rfl⟩

theorem exec_delay_next {p : TimeParam} {s t : State} (h : exec (.delay p) s = .next t) :
    configOk s.cfg = true ∧ t = delay p s := by
  obtain ⟨h1, h2⟩ := whenConfigured_next h
  cases h2
  exact ⟨h1, rfl⟩

/-- What the micro-operation SAMPLE does, whether or not `acc` has been written. -/
theorem exec_sample_next {s t : State} (h : exec .sample s = .next t) :
    configOk s.cfg = true ∧ s.sdoDir = .input ∧ t = sampleIn (noteReads [.acc] s) := by
  obtain ⟨h1, h2⟩ := whenConfigured_next h
  obtain ⟨h3, h4⟩ := whenSampling_next h2
  cases h4
  exact ⟨h1, h3, rfl⟩

/-- What the micro-operation POLL does, whether or not `wstart` has been written. -/
theorem exec_poll_next {s t : State} (h : exec .poll s = .next t) :
    configOk s.cfg = true ∧ s.sdoDir = .input ∧
      t = pollOnce (noteReads (if s.sdoLevel then [] else [.wstart]) s) := by
  obtain ⟨h1, h2⟩ := whenConfigured_next h
  obtain ⟨h3, h4⟩ := whenSampling_next h2
  cases h4
  exact ⟨h1, h3, rfl⟩

/-- A SET writes what its expressions give and nothing else (40_link.md R125); a read before a first write is recorded
(log 8), and a value that the spec does not state is counted (log 34). -/
theorem exec_set_next {as : List Assign} {s t : State} (h : exec (.set as) s = .next t) :
    configOk s.cfg = true ∧
      t = countOpen (setOpen s as) ((noteReads (setReads as) s).putAll (setWrites s as)) := by
  obtain ⟨h1, h2⟩ := whenConfigured_next h
  cases h2
  exact ⟨h1, rfl⟩

/-- A SET always runs. -/
theorem exec_set_of_configOk (as : List Assign) {s : State} (hc : configOk s.cfg = true) :
    exec (.set as) s = .next (countOpen (setOpen s as) ((noteReads (setReads as) s).putAll (setWrites s as))) :=
  whenConfigured_ok hc _

/-- A SET whose reads have all been written records nothing. -/
theorem exec_set_of_written {as : List Assign} {s : State} (hc : configOk s.cfg = true)
    (h : ∀ r ∈ setReads as, r ∉ s.unwritten) :
    exec (.set as) s = .next (countOpen (setOpen s as) (s.putAll (setWrites s as))) := by
  rw [exec_set_of_configOk as hc, noteReads_of_written h]

@[simp] theorem setWrites_regs (s : State) (as : List Assign) : (setWrites s as).map (·.1) = as.map (·.reg) := by
  simp only [setWrites, List.map_map]
  exact (List.map_map (l := as.zipIdx) (f := Prod.fst) (g := Assign.reg)).symm.trans
    (by rw [List.zipIdx_map_fst])

/-! ## The engine -/

/-- Inside a session a step is a step of its phase (10_state.md R31). -/
theorem step_of_phase {s : State} (hc : configOk s.cfg = true) (hp : s.pc.phase ≠ .idle) :
    step s = stepPhase s.pc.phase (dropTrigger s) := by
  unfold step stepEngine
  rw [whenConfigured_ok hc]
  cases h : s.pc.phase <;> first | rfl | exact absurd h hp

/-- In IDLE a step starts a session, runs what is issued, or waits (45_session.md R220; log 10). -/
theorem step_of_idle {s : State} (hc : configOk s.cfg = true) (hp : s.pc.phase = .idle) :
    step s = stepIdle s.host.trigger (dropTrigger s) := by
  unfold step stepEngine
  rw [whenConfigured_ok hc, hp]

/-- Running a micro-operation of a phase: exec of it, and `upc` moves on when it is complete (10_state.md R31). -/
theorem runMicro_next {i : Instr} {s t : State} (h : runMicro i s = .next t) :
    ∃ u, exec i s = .next u ∧ t = advance (microEnds i s) u := by
  unfold runMicro at h
  split at h
  · cases h
    exact ⟨_, ‹_›, rfl⟩
  · cases h
  · cases h

/-- Everything a step inside a session can do: one micro-operation of the phase's list, or, at its end, the phase's exit
transition (10_state.md R31, 45_session.md R223). -/
theorem stepPhase_next {p : Phase} {s t : State} (h : stepPhase p s = .next t) :
    (∃ i u, (uprog p s)[s.pc.upc]? = some i ∧ exec i (noteReads (phaseReads p) s) = .next u ∧
        t = advance (microEnds i s) u) ∨
      ((uprog p s)[s.pc.upc]? = none ∧ t = leavePhase p (noteReads (phaseReads p ++ exitReads p) s)) := by
  unfold stepPhase at h
  split at h
  · obtain ⟨u, hu, ht⟩ := runMicro_next h
    exact .inl ⟨_, u, ‹_›, hu, ht⟩
  · cases h
    exact .inr ⟨‹_›, rfl⟩

/-- Everything a step in IDLE can do (45_session.md R220; logs 10, 16). -/
theorem stepIdle_next {tr : Bool} {s t : State} (h : stepIdle tr s = .next t) :
    (tr = true ∧ t = beginSession s) ∨ (tr = false ∧ s.issue = [] ∧ t = idlePoll s) ∨
      (tr = false ∧ ∃ w rest i, s.issue = w :: rest ∧ fetchIssue s.cfg w = .ok i ∧
        exec i { s with issue := rest } = .next t) := by
  unfold stepIdle at h
  cases tr
  · right
    simp only [Bool.false_eq_true, if_false] at h
    split at h
    · cases h
      exact .inl ⟨rfl, ‹_›, rfl⟩
    · rename_i w rest hw
      right
      unfold runIssue at h
      split at h
      · exact ⟨rfl, w, rest, _, hw, ‹_›, h⟩
      · cases h
  · left
    simp only [if_true] at h
    cases h
    exact ⟨rfl, rfl⟩

/-- Everything a step can do. -/
theorem step_next {s t : State} (h : step s = .next t) :
    configOk s.cfg = true ∧
      ((s.pc.phase = .idle ∧ stepIdle s.host.trigger (dropTrigger s) = .next t) ∨
        (s.pc.phase ≠ .idle ∧ stepPhase s.pc.phase (dropTrigger s) = .next t)) := by
  have hc : configOk s.cfg = true := (whenConfigured_next h).1
  refine ⟨hc, ?_⟩
  by_cases hp : s.pc.phase = .idle
  · exact .inl ⟨hp, (step_of_idle hc hp).symm.trans h⟩
  · exact .inr ⟨hp, (step_of_phase hc hp).symm.trans h⟩

end Sys2Proof.Machine
end

