-- ==== Sys2Proof/Laws/Trace.lean ====
section
/-! SUPPORT. The events between two states, when they happened, and the frame of a link operation. -/

namespace Sys2Proof.Machine

theorem newEvents_append {s t : State} {evs : List Event} (h : t.trace = s.trace ++ evs) : newEvents s t = evs := by
  simp [newEvents, h]

@[simp] theorem newEvents_self (s : State) : newEvents s s = [] := by
  simp [newEvents]

/-- An operation that leaves the trace alone has no events. -/
theorem newEvents_of_trace_eq {s t : State} (h : t.trace = s.trace) : newEvents s t = [] := by
  simp [newEvents, h]

/-- The events of two operations, one after the other. -/
theorem newEvents_trans {s t u : State} (h1 : s.trace <+: t.trace) (h2 : t.trace <+: u.trace) :
    newEvents s u = newEvents s t ++ newEvents t u := by
  obtain ⟨a, ha⟩ := h1
  obtain ⟨b, hb⟩ := h2
  rw [newEvents_append ha.symm, newEvents_append hb.symm, newEvents_append (evs := a ++ b)]
  rw [← hb, ← ha, List.append_assoc]

theorem newKinds_append {s t : State} {evs : List Event} (h : t.trace = s.trace ++ evs) :
    newKinds s t = evs.map (·.kind) := by
  rw [newKinds, newEvents_append h]

@[simp] theorem newKinds_self (s : State) : newKinds s s = [] := by
  simp [newKinds]

theorem newKinds_trans {s t u : State} (h1 : s.trace <+: t.trace) (h2 : t.trace <+: u.trace) :
    newKinds s u = newKinds s t ++ newKinds t u := by
  simp [newKinds, newEvents_trans h1 h2]

/-- The earliest time of a latch write is not in the past. -/
theorem now_le_edgeTime (s : State) : s.now ≤ s.edgeTime := by
  unfold State.edgeTime
  split <;> omega

namespace LinkStep

theorem refl (s : State) : LinkStep s s where
  cfg := rfl
  sdoDir := rfl
  rst := rfl
  vcc := rfl
  sdoOut := rfl
  ident := rfl
  pc := rfl
  sess := rfl
  outcome := rfl
  host := rfl
  issue := rfl
  now := le_refl _
  trace := List.prefix_rfl
  unwritten := fun _ _ => Iff.rfl
  unwrittenShrinks := fun _ h => h
  readUnwritten := rfl

theorem trans {s t u : State} (h1 : LinkStep s t) (h2 : LinkStep t u) : LinkStep s u where
  cfg := h2.cfg.trans h1.cfg
  sdoDir := h2.sdoDir.trans h1.sdoDir
  rst := h2.rst.trans h1.rst
  vcc := h2.vcc.trans h1.vcc
  sdoOut := h2.sdoOut.trans h1.sdoOut
  ident := h2.ident.trans h1.ident
  pc := h2.pc.trans h1.pc
  sess := h2.sess.trans h1.sess
  outcome := h2.outcome.trans h1.outcome
  host := h2.host.trans h1.host
  issue := h2.issue.trans h1.issue
  now := h1.now.trans h2.now
  trace := h1.trace.trans h2.trace
  unwritten := fun r hr => (h2.unwritten r hr).trans (h1.unwritten r hr)
  unwrittenShrinks := fun r hr => h1.unwrittenShrinks r (h2.unwrittenShrinks r hr)
  readUnwritten := h2.readUnwritten.trans h1.readUnwritten

end LinkStep

/-- The lines that a transfer drives (40_link.md R113). -/
theorem linkStep_pin (s : State) (b : Bool) {r : Role} (h : r = .sci ∨ r = .sdi ∨ r = .sii) :
    LinkStep s (pin r b s) := by
  have hn : s.now ≤ s.edgeTime + s.extra := le_trans (now_le_edgeTime s) (Nat.le_add_right _ _)
  rcases h with rfl | rfl | rfl <;>
  exact
    { cfg := rfl, sdoDir := rfl, rst := rfl, vcc := rfl, sdoOut := rfl, ident := rfl, pc := rfl, sess := rfl,
      outcome := rfl, host := rfl, issue := rfl, now := hn, trace := List.prefix_append _ _,
      unwritten := fun _ _ => Iff.rfl, unwrittenShrinks := fun _ h => h, readUnwritten := rfl }

theorem linkStep_observe (s : State) : LinkStep s (observe s) where
  cfg := rfl
  sdoDir := rfl
  rst := rfl
  vcc := rfl
  sdoOut := rfl
  ident := rfl
  pc := rfl
  sess := rfl
  outcome := rfl
  host := rfl
  issue := rfl
  now := Nat.le_add_right _ _
  trace := List.prefix_append _ _
  unwritten := fun _ _ => Iff.rfl
  unwrittenShrinks := fun _ h => h
  readUnwritten := rfl

theorem linkStep_delay (t : TimeParam) (s : State) : LinkStep s (delay t s) where
  cfg := rfl
  sdoDir := rfl
  rst := rfl
  vcc := rfl
  sdoOut := rfl
  ident := rfl
  pc := rfl
  sess := rfl
  outcome := rfl
  host := rfl
  issue := rfl
  now := by rw [delay_now]; omega
  trace := List.prefix_rfl
  unwritten := fun _ _ => Iff.rfl
  unwrittenShrinks := fun _ h => h
  readUnwritten := rfl

/-- A write of a register of the link or of its timer. -/
theorem linkStep_put (s : State) (v : Val) {r : Reg} (h : r ∈ linkRegs) : LinkStep s (s.put r v) := by
  have hu : ∀ x, x ∉ linkRegs → (x ∈ (s.put r v).unwritten ↔ x ∈ s.unwritten) := by
    intro x hx
    have hne : x ≠ r := fun e => hx (e ▸ h)
    simp [hne]
  have hs : ∀ x, x ∈ (s.put r v).unwritten → x ∈ s.unwritten := by
    intro x hx
    simp only [put_unwritten, List.mem_filter] at hx
    exact hx.1
  have hp : (s.put r v).pins = s.pins := put_pins s r v
  refine
    { cfg := put_cfg s r v, sdoDir := put_sdoDir s r v, rst := by rw [hp], vcc := by rw [hp], sdoOut := by rw [hp],
      ident := ?_, pc := put_pc s r v, sess := ?_, outcome := ?_, host := put_host s r v, issue := put_issue s r v,
      now := by rw [put_now], trace := by rw [put_trace], unwritten := hu, unwrittenShrinks := hs,
      readUnwritten := put_readUnwritten s r v }
  all_goals
    simp only [linkRegs, List.mem_cons, List.not_mem_nil, or_false] at h
    rcases h with rfl | rfl | rfl | rfl | rfl | rfl | rfl <;> rfl

theorem linkStep_sampleIn (s : State) : LinkStep s (sampleIn s) :=
  (linkStep_observe s).trans (linkStep_put _ _ (by decide))

theorem linkStep_countOpen (m : Bool) (s : State) : LinkStep s (countOpen m s) where
  cfg := rfl
  sdoDir := rfl
  rst := rfl
  vcc := rfl
  sdoOut := rfl
  ident := rfl
  pc := rfl
  sess := rfl
  outcome := rfl
  host := rfl
  issue := rfl
  now := le_refl _
  trace := List.prefix_rfl
  unwritten := fun _ _ => Iff.rfl
  unwrittenShrinks := fun _ h => h
  readUnwritten := rfl

theorem linkStep_pollOnce (s : State) : LinkStep s (pollOnce s) := by
  have ho := (linkStep_observe s).trans (linkStep_countOpen (deadlineOpen s) (observe s))
  unfold pollOnce
  split
  · exact (linkStep_observe s).trans (linkStep_put _ _ (by decide))
  · dsimp only
    split
    · exact ho.trans (linkStep_put _ _ (by decide))
    · exact ho.trans (linkStep_delay _ _)

/-! ## The times of the events -/

/-- The events between two states happened between their two times (10_state.md R38, R39). -/
abbrev EventsWithin (s t : State) : Prop := ∀ e ∈ newEvents s t, s.now ≤ e.time ∧ e.time ≤ t.now

theorem eventsWithin_of_trace_eq {s t : State} (h : t.trace = s.trace) : EventsWithin s t := by
  rw [EventsWithin, newEvents_of_trace_eq h]
  intro e he
  cases he

theorem eventsWithin_trans {s t u : State} (h1 : LinkStep s t) (h2 : LinkStep t u) (e1 : EventsWithin s t)
    (e2 : EventsWithin t u) : EventsWithin s u := by
  intro e he
  rw [newEvents_trans h1.trace h2.trace, List.mem_append] at he
  have n1 := h1.now
  have n2 := h2.now
  rcases he with he | he
  · exact ⟨(e1 e he).1, (e1 e he).2.trans n2⟩
  · exact ⟨n1.trans (e2 e he).1, (e2 e he).2⟩

theorem eventsWithin_pin (r : Role) (b : Bool) (s : State) : EventsWithin s (pin r b s) := by
  intro e he
  rw [newEvents_append (pin_trace r b s), List.mem_singleton] at he
  subst he
  exact ⟨now_le_edgeTime s, Nat.le_add_right _ _⟩

theorem eventsWithin_sampleIn (s : State) : EventsWithin s (sampleIn s) := by
  intro e he
  have h : (sampleIn s).trace = s.trace ++ [⟨s.now, .sample s.sdoLevel⟩] := by simp [sampleIn]
  rw [newEvents_append h, List.mem_singleton] at he
  subst he
  exact ⟨le_refl _, (linkStep_sampleIn s).now⟩

end Sys2Proof.Machine
end

