-- ==== Sys2Proof/Laws/Wait.lean ====
section
/-! SUPPORT. What a POLL and a whole readiness wait can do (40_link.md R115, R118). -/

namespace Sys2Proof.Machine

/-! ## One POLL -/

/-- The state after a POLL's sample, in which an unstated deadline test has been counted (log 36). -/
abbrev polled (s : State) : State := countOpen (deadlineOpen s) (observe s)

/-- The deadline test of a wait whose start is not in the future (40_link.md R115). -/
theorem deadlinePassed_of_begun {s : State} (h : s.wait.wstart ≤ s.now) :
    deadlinePassed s = decide (s.cfg.timing.readyTimeout ≤ (observe s).now - s.wait.wstart) := by
  have ho : deadlineOpen s = false := decide_eq_false (by rw [observe_now]; omega)
  rw [deadlinePassed, ho]
  rfl

/-- A POLL with a high sample ends the wait as ready. -/
theorem pollOnce_high {s : State} (h : s.sdoLevel = true) :
    pollOnce s = (observe s).put .wres (.waitResult .ready) := by
  simp [pollOnce, h]

/-- A POLL with a low sample at or past the deadline ends the wait as expired. -/
theorem pollOnce_deadline {s : State} (h : s.sdoLevel = false) (hd : deadlinePassed s = true) :
    pollOnce s = (polled s).put .wres (.waitResult .expired) := by
  simp [pollOnce, h, hd]

/-- A POLL that does not end the wait lets at least `T_POLL_MIN` pass. -/
theorem pollOnce_goesOn {s : State} (h : pollEnds s = false) : pollOnce s = delay .pollMin (polled s) := by
  simp only [pollEnds, Bool.or_eq_false_iff] at h
  simp [pollOnce, h.1, h.2]

theorem low_of_goesOn {s : State} (h : pollEnds s = false) : s.sdoLevel = false := by
  simp only [pollEnds, Bool.or_eq_false_iff] at h
  exact h.1

@[simp] theorem pollOnce_trace (s : State) :
    (pollOnce s).trace = s.trace ++ [⟨s.now, .sample s.sdoLevel⟩] := by
  unfold pollOnce
  split
  · simp
  · split <;> simp

@[simp] theorem pollOnce_pins (s : State) : (pollOnce s).pins = s.pins := by
  unfold pollOnce
  split
  · simp
  · split <;> simp

@[simp] theorem pollOnce_link (s : State) : (pollOnce s).link = s.link := by
  unfold pollOnce
  split
  · simp
  · split <;> simp

@[simp] theorem pollOnce_wstart (s : State) : (pollOnce s).wait.wstart = s.wait.wstart := by
  unfold pollOnce
  split
  · simp
  · split <;> simp

@[simp] theorem pollOnce_cfg (s : State) : (pollOnce s).cfg = s.cfg := (linkStep_pollOnce s).cfg

/-- After a POLL that ends the wait, `wres` says whether the sample was high. -/
theorem pollOnce_wres_of_ends {s : State} (h : pollEnds s = true) :
    (pollOnce s).wait.wres = if s.sdoLevel then .ready else .expired := by
  cases hl : s.sdoLevel
  · have hd : deadlinePassed s = true := by simpa [pollEnds, hl] using h
    simp [pollOnce_deadline hl hd]
  · simp [pollOnce_high hl]

/-- After a POLL that ends the wait, `wres` has been written. -/
theorem pollOnce_unwritten_of_ends {s : State} (h : pollEnds s = true) :
    (pollOnce s).unwritten = s.unwritten.filter fun x => x ≠ .wres := by
  cases hl : s.sdoLevel
  · have hd : deadlinePassed s = true := by simpa [pollEnds, hl] using h
    simp [pollOnce_deadline hl hd]
  · simp [pollOnce_high hl]

/-- A POLL that ends the wait takes the duration of its sample and no more. -/
theorem pollOnce_now_of_ends {s : State} (h : pollEnds s = true) : (pollOnce s).now = s.now + s.extra := by
  cases hl : s.sdoLevel
  · have hd : deadlinePassed s = true := by simpa [pollEnds, hl] using h
    simp [pollOnce_deadline hl hd]
  · simp [pollOnce_high hl]

theorem pollOnce_now_of_goesOn {s : State} (h : pollEnds s = false) :
    s.now + s.cfg.timing.pollMin ≤ (pollOnce s).now := by
  rw [pollOnce_goesOn h]
  simp only [delay_now, countOpen_now, countOpen_cfg, observe_now, observe_cfg, timingOf]
  omega

/-! ## The loop of a wait -/

/-- The state after `k` polls. -/
abbrev pollsFrom (s : State) (k : Nat) : State := pollOnce^[k] s

/-- The first `k` polls do not end the wait. -/
abbrev goesOnFor (s : State) (k : Nat) : Prop := ∀ j < k, pollEnds (pollsFrom s j) = false

@[simp] theorem pollsFrom_zero (s : State) : pollsFrom s 0 = s := rfl

@[simp] theorem pollsFrom_one (s : State) : pollsFrom s 1 = pollOnce s := rfl

theorem pollsFrom_succ (s : State) (k : Nat) : pollsFrom s (k + 1) = pollOnce (pollsFrom s k) :=
  Function.iterate_succ_apply' pollOnce k s

theorem linkStep_pollsFrom (s : State) (k : Nat) : LinkStep s (pollsFrom s k) := by
  induction k with
  | zero => exact LinkStep.refl s
  | succ k ih => rw [pollsFrom_succ]; exact ih.trans (linkStep_pollOnce _)

theorem pollsFrom_pins (s : State) (k : Nat) : (pollsFrom s k).pins = s.pins := by
  induction k with
  | zero => rfl
  | succ k ih => rw [pollsFrom_succ, pollOnce_pins, ih]

theorem pollsFrom_link (s : State) (k : Nat) : (pollsFrom s k).link = s.link := by
  induction k with
  | zero => rfl
  | succ k ih => rw [pollsFrom_succ, pollOnce_link, ih]

theorem pollsFrom_wstart (s : State) (k : Nat) : (pollsFrom s k).wait.wstart = s.wait.wstart := by
  induction k with
  | zero => rfl
  | succ k ih => rw [pollsFrom_succ, pollOnce_wstart, ih]

/-- Each poll that goes on takes at least `T_POLL_MIN`. -/
theorem pollsFrom_now {s : State} {k : Nat} (h : goesOnFor s k) :
    s.now + k * s.cfg.timing.pollMin ≤ (pollsFrom s k).now := by
  induction k with
  | zero => simp
  | succ k ih =>
    have h1 := ih fun j hj => h j (Nat.lt_succ_of_lt hj)
    have h2 := pollOnce_now_of_goesOn (h k (Nat.lt_succ_self k))
    rw [(linkStep_pollsFrom s k).cfg] at h2
    rw [pollsFrom_succ, Nat.succ_mul]
    omega

/-- Polls that go on lie at least `T_POLL_MIN` apart. -/
theorem pollsFrom_spacing {s : State} {k i j : Nat} (h : goesOnFor s k) (hij : i < j) (hj : j ≤ k) :
    (pollsFrom s i).now + s.cfg.timing.pollMin ≤ (pollsFrom s j).now := by
  obtain ⟨m, rfl⟩ : ∃ m, j = i + 1 + m := ⟨j - (i + 1), by omega⟩
  have h1 := pollOnce_now_of_goesOn (h i (by omega))
  rw [(linkStep_pollsFrom s i).cfg, ← pollsFrom_succ] at h1
  have h2 := (linkStep_pollsFrom (pollsFrom s (i + 1)) m).now
  rw [pollsFrom, pollsFrom, ← Function.iterate_add_apply, Nat.add_comm m] at h2
  exact h1.trans h2

/-- A poll that goes on takes its sample before the deadline. -/
theorem now_before_deadline {s : State} (hw : s.wait.wstart ≤ s.now) (h : pollEnds s = false) :
    s.now - s.wait.wstart < s.cfg.timing.readyTimeout := by
  have h1 := (Bool.or_eq_false_iff.1 h).2
  rw [deadlinePassed_of_begun hw, decide_eq_false_iff_not] at h1
  rw [observe_now] at h1
  omega

/-- The sample event of the `j`-th poll. -/
abbrev pollEvent (s : State) (j : Nat) : Event := ⟨(pollsFrom s j).now, .sample (pollsFrom s j).sdoLevel⟩

/-- The events of `k` polls. -/
theorem newEvents_pollsFrom (s : State) (k : Nat) :
    newEvents s (pollsFrom s k) = (List.range k).map (pollEvent s) := by
  induction k with
  | zero => simp
  | succ k ih =>
    rw [pollsFrom_succ, newEvents_trans (linkStep_pollsFrom s k).trace (linkStep_pollOnce _).trace, ih,
      newEvents_append (pollOnce_trace _), List.range_succ, List.map_append]
    rfl

/-- The loop of a wait with enough polls: some polls that go on, then one that ends it. -/
theorem pollLoop_eq {n : Nat} {s : State} (hw : s.wait.wstart ≤ s.now)
    (hn : s.cfg.timing.readyTimeout ≤ (s.now - s.wait.wstart) + n * s.cfg.timing.pollMin) :
    ∃ k, goesOnFor s k ∧ pollEnds (pollsFrom s k) = true ∧ pollLoop (n + 1) s = pollsFrom s (k + 1) := by
  induction n generalizing s with
  | zero =>
    have hd : deadlinePassed s = true := by
      rw [deadlinePassed_of_begun hw]
      refine decide_eq_true ?_
      rw [observe_now]
      omega
    have he : pollEnds s = true := by simp [pollEnds, hd]
    exact ⟨0, fun j hj => absurd hj (Nat.not_lt_zero j), he, by simp [pollLoop, he]⟩
  | succ n ih =>
    cases he : pollEnds s
    · have hcfg : (pollOnce s).cfg = s.cfg := pollOnce_cfg s
      have hnow := pollOnce_now_of_goesOn he
      have hws := pollOnce_wstart s
      obtain ⟨k, h1, h2, h3⟩ := ih (s := pollOnce s) (by omega) (by
        rw [hcfg, hws]
        rw [Nat.succ_mul] at hn
        omega)
      refine ⟨k + 1, ?_, h2, ?_⟩
      · intro j hj
        cases j with
        | zero => exact he
        | succ j => exact h1 j (Nat.lt_of_succ_lt_succ hj)
      · rw [pollLoop, he]
        exact h3
    · exact ⟨0, fun j hj => absurd hj (Nat.not_lt_zero j), he, by simp [pollLoop, he]⟩

/-! ## The whole wait -/

/-- The state in which a wait's polls begin. -/
abbrev waitBegun (s : State) : State := s.put .wstart (.num s.now)

/-- A wait is some polls that go on, then one that ends it (40_link.md R115). -/
theorem waitReady_eq {s : State} (h : s.cfg.timing.pollMin ≠ 0) :
    ∃ k, goesOnFor (waitBegun s) k ∧ pollEnds (pollsFrom (waitBegun s) k) = true ∧
      waitReady s = pollsFrom (waitBegun s) (k + 1) := by
  have hdiv := Nat.div_add_mod s.cfg.timing.readyTimeout s.cfg.timing.pollMin
  have hmod := Nat.mod_lt s.cfg.timing.readyTimeout (Nat.pos_of_ne_zero h)
  have hmul : (s.cfg.timing.readyTimeout / s.cfg.timing.pollMin + 1) * s.cfg.timing.pollMin
      = s.cfg.timing.pollMin * (s.cfg.timing.readyTimeout / s.cfg.timing.pollMin) + s.cfg.timing.pollMin := by
    rw [Nat.add_mul, Nat.one_mul, Nat.mul_comm]
  refine pollLoop_eq (n := s.cfg.timing.readyTimeout / s.cfg.timing.pollMin + 1) (s := waitBegun s) ?_ ?_
  · simp
  · simp only [put_cfg, put_now, put_wstart_wait, toNat_num]
    omega

/-- What a readiness wait does, whatever the target answers (40_link.md R115). -/
theorem waitReady_linkStep {s : State} (h : s.cfg.timing.pollMin ≠ 0) : LinkStep s (waitReady s) := by
  obtain ⟨k, -, -, he⟩ := waitReady_eq h
  rw [he]
  exact (linkStep_put s _ (by decide)).trans (linkStep_pollsFrom _ _)

theorem waitReady_pins {s : State} (h : s.cfg.timing.pollMin ≠ 0) : (waitReady s).pins = s.pins := by
  obtain ⟨k, -, -, he⟩ := waitReady_eq h
  rw [he, pollsFrom_pins, put_pins]

theorem waitReady_link {s : State} (h : s.cfg.timing.pollMin ≠ 0) : (waitReady s).link = s.link := by
  obtain ⟨k, -, -, he⟩ := waitReady_eq h
  rw [he, pollsFrom_link]
  rfl

theorem waitReady_wstart {s : State} (h : s.cfg.timing.pollMin ≠ 0) : (waitReady s).wait.wstart = s.now := by
  obtain ⟨k, -, -, he⟩ := waitReady_eq h
  rw [he, pollsFrom_wstart]
  rfl

/-- The events of `k` polls that go on and the one that ends the wait (40_link.md R115, R118). -/
theorem pollsFrom_isWait {s : State} {k : Nat} (hc : s.cfg.timing.pollMin ≠ 0) (hw : s.wait.wstart = s.now)
    (hg : goesOnFor s k) (he : pollEnds (pollsFrom s k) = true) :
    IsWait s.cfg.timing s.now (newEvents s (pollsFrom s (k + 1))) (pollsFrom s (k + 1)).now := by
  have hws : ∀ j, (pollsFrom s j).wait.wstart = s.now := fun j => (pollsFrom_wstart s j).trans hw
  have hcfg : ∀ j, (pollsFrom s j).cfg = s.cfg := fun j => (linkStep_pollsFrom s j).cfg
  have hle : ∀ j, (pollsFrom s j).wait.wstart ≤ (pollsFrom s j).now := fun j => by
    rw [hws]
    exact (linkStep_pollsFrom s j).now
  have hbefore : ∀ j < k, (pollsFrom s j).now < s.now + s.cfg.timing.readyTimeout := fun j hj => by
    have h1 := now_before_deadline (hle j) (hg j hj)
    rw [hws, hcfg] at h1
    omega
  rw [newEvents_pollsFrom]
  refine ⟨(List.range (k + 1)).map fun j => (pollsFrom s j).sdoLevel, ⟨by simp, ?_⟩, ?_, ?_, ?_, ?_, ?_, ?_, ?_⟩
  · intro b hb
    rw [List.range_succ, List.map_append, List.map_singleton, List.dropLast_concat, List.mem_map] at hb
    obtain ⟨j, hj, rfl⟩ := hb
    exact low_of_goesOn (hg j (List.mem_range.1 hj))
  · simp
  · have hp := Nat.pos_of_ne_zero hc
    simp only [List.length_map, List.length_range, mostPolls]
    cases k with
    | zero => exact Nat.le_add_left _ _
    | succ k =>
      have h1 := pollsFrom_now fun j hj => hg j (Nat.lt_succ_of_lt hj)
      have h2 := hbefore k (Nat.lt_succ_self k)
      have h3 : k * s.cfg.timing.pollMin < s.cfg.timing.readyTimeout := by omega
      have h4 : k + 1 ≤ (s.cfg.timing.readyTimeout + s.cfg.timing.pollMin - 1) / s.cfg.timing.pollMin := by
        rw [Nat.le_div_iff_mul_le hp, Nat.add_mul]
        omega
      omega
  · simp [List.range_succ_eq_map]
  · rw [List.map_map, List.pairwise_map]
    refine List.pairwise_lt_range.imp_of_mem ?_
    intro i j _ hj hij
    exact pollsFrom_spacing hg hij (Nat.le_of_lt_succ (List.mem_range.1 hj))
  · intro e hm
    rw [List.range_succ, List.map_append, List.map_singleton, List.dropLast_concat, List.mem_map] at hm
    obtain ⟨j, hj, rfl⟩ := hm
    exact hbefore j (List.mem_range.1 hj)
  · intro e hm
    obtain ⟨j, hj, rfl⟩ := List.mem_map.1 hm
    have h1 := (linkStep_pollsFrom (pollsFrom s j) (k + 1 - j)).now
    rw [pollsFrom, pollsFrom, ← Function.iterate_add_apply, Nat.sub_add_cancel (List.mem_range.1 hj).le] at h1
    exact h1
  · intro hl
    rw [List.range_succ, List.map_append, List.map_singleton, List.getLast?_concat, Option.some.injEq] at hl
    have hd : deadlinePassed (pollsFrom s k) = true := by simpa [pollEnds, hl] using he
    simp only [deadlinePassed_of_begun (hle k), decide_eq_true_eq, hws, hcfg, observe_now] at hd
    rw [pollsFrom_succ, pollOnce_now_of_ends he]
    have hn := (linkStep_pollsFrom s k).now
    omega

/-- The events of a wait (40_link.md R115): low samples, then the one that ended it, at their times. -/
theorem waitReady_isWait {s : State} (h : s.cfg.timing.pollMin ≠ 0) :
    IsWait s.cfg.timing s.now (newEvents s (waitReady s)) (waitReady s).now := by
  obtain ⟨k, hg, hend, he⟩ := waitReady_eq h
  have hs : newEvents s (waitReady s) = newEvents (waitBegun s) (waitReady s) := by
    rw [newEvents, newEvents, put_trace]
  rw [hs, he]
  exact pollsFrom_isWait (s := waitBegun s) h rfl hg hend

end Sys2Proof.Machine
end

