-- ==== Sys2Proof/Laws/Transfer.lean ====
section
/-! SUPPORT. What a transfer, and a sequence of transfers, can do (40_link.md R110 to R114, R126, R127). -/

namespace Sys2Proof.Machine

/-! ## The shift -/

/-- The events of the shift step of bit `j` of two frames, whose sample was `b` (40_link.md R113). -/
abbrev shiftBitKinds (dataFrame instrFrame : Frame) (j : BitIdx) (b : Bool) : List EventKind :=
  [.level .sdi (dataFrame.getLsbD j), .level .sii (instrFrame.getLsbD j), .sample b,
   .level .sci true, .level .sci false]

theorem linkStep_shiftBit (j : BitIdx) (s : State) : LinkStep s (shiftBit j s) := by
  unfold shiftBit
  refine ((((LinkStep.trans ?_ (linkStep_pin _ _ ?_)).trans (linkStep_pin _ _ ?_)).trans
    (linkStep_sampleIn _)).trans (linkStep_pin _ _ ?_)).trans (linkStep_pin _ _ ?_)
  · exact linkStep_put _ _ (by decide)
  all_goals simp

theorem eventsWithin_shiftBit (j : BitIdx) (s : State) : EventsWithin s (shiftBit j s) := by
  unfold shiftBit
  refine eventsWithin_trans ((((LinkStep.trans ?_ (linkStep_pin _ _ ?_)).trans (linkStep_pin _ _ ?_)).trans
    (linkStep_sampleIn _)).trans (linkStep_pin _ _ ?_)) (linkStep_pin _ _ ?_) (eventsWithin_trans
    (((LinkStep.trans ?_ (linkStep_pin _ _ ?_)).trans (linkStep_pin _ _ ?_)).trans (linkStep_sampleIn _))
    (linkStep_pin _ _ ?_) (eventsWithin_trans ((LinkStep.trans ?_ (linkStep_pin _ _ ?_)).trans (linkStep_pin _ _ ?_))
    (linkStep_sampleIn _) (eventsWithin_trans (LinkStep.trans ?_ (linkStep_pin _ _ ?_)) (linkStep_pin _ _ ?_)
    (eventsWithin_trans ?_ (linkStep_pin _ _ ?_) ?_ (eventsWithin_pin _ _ _)) (eventsWithin_pin _ _ _))
    (eventsWithin_sampleIn _)) (eventsWithin_pin _ _ _)) (eventsWithin_pin _ _ _)
  all_goals first
    | exact linkStep_put _ _ (by decide)
    | exact eventsWithin_of_trace_eq (put_trace _ _ _)
    | simp

/-- The state in which the sample of a shift step is taken. -/
abbrev atSample (j : BitIdx) (s : State) : State :=
  pin .sii (s.link.iout.getLsbD j) (pin .sdi (s.link.dout.getLsbD j) (s.put .bidx (.index j)))

theorem shiftBit_eq (j : BitIdx) (s : State) :
    shiftBit j s = pin .sci false (pin .sci true (sampleIn (atSample j s))) := rfl

theorem shiftBit_trace (j : BitIdx) (s : State) :
    newKinds s (shiftBit j s) =
      shiftBitKinds s.link.dout s.link.iout j (atSample j s).sdoLevel := by
  have h : ∃ evs, (shiftBit j s).trace = s.trace ++ evs ∧ evs.map (·.kind) =
      shiftBitKinds s.link.dout s.link.iout j (atSample j s).sdoLevel := by
    simp only [shiftBit_eq, sampleIn, pin_trace, put_trace, observe_trace, List.append_assoc]
    exact ⟨_, rfl, rfl⟩
  obtain ⟨evs, h1, h2⟩ := h
  rw [newKinds_append h1, h2]

theorem shiftBit_link (j : BitIdx) (s : State) :
    (shiftBit j s).link =
      { s.link with bidx := j, acc := shiftIn s.link.acc (atSample j s).sdoLevel } := by
  simp [shiftBit_eq, sampleIn]

theorem shiftBit_pins (j : BitIdx) (s : State) :
    (shiftBit j s).pins =
      { s.pins with sdi := s.link.dout.getLsbD j, sii := s.link.iout.getLsbD j, sci := false } := by
  simp [shiftBit_eq, sampleIn]

theorem shiftBit_wait (j : BitIdx) (s : State) : (shiftBit j s).wait = s.wait := by
  simp [shiftBit_eq, sampleIn]

/-- The shift of some frame bits, in order. -/
abbrev shiftBits (js : List BitIdx) (s : State) : State := js.foldl (fun t j => shiftBit j t) s

theorem linkStep_shiftBits (js : List BitIdx) (s : State) : LinkStep s (shiftBits js s) := by
  induction js generalizing s with
  | nil => exact LinkStep.refl s
  | cons j js ih => exact (linkStep_shiftBit j s).trans (ih _)

theorem eventsWithin_shiftBits (js : List BitIdx) (s : State) : EventsWithin s (shiftBits js s) := by
  induction js generalizing s with
  | nil => exact eventsWithin_of_trace_eq rfl
  | cons j js ih =>
    exact eventsWithin_trans (linkStep_shiftBit j s) (linkStep_shiftBits js _) (eventsWithin_shiftBit j s) (ih _)

/-- The events of a shift, and the accumulator it leaves. -/
theorem shiftBits_spec (js : List BitIdx) (s : State) :
    ∃ smp : List Bool, smp.length = js.length ∧
      newKinds s (shiftBits js s) =
        (js.zip smp).flatMap (fun x => shiftBitKinds s.link.dout s.link.iout x.1 x.2) ∧
      (shiftBits js s).link.acc = smp.foldl shiftIn s.link.acc ∧
      (shiftBits js s).link.dout = s.link.dout ∧ (shiftBits js s).link.iout = s.link.iout ∧
      (shiftBits js s).link.rbyte = s.link.rbyte ∧ (shiftBits js s).wait = s.wait := by
  induction js generalizing s with
  | nil => exact ⟨[], rfl, by simp, rfl, rfl, rfl, rfl, rfl⟩
  | cons j js ih =>
    obtain ⟨smp, h1, h2, h3, h4, h5, h6, h7⟩ := ih (shiftBit j s)
    have hl := shiftBit_link j s
    refine ⟨(atSample j s).sdoLevel :: smp, by simp [h1], ?_, ?_, ?_, ?_, ?_, ?_⟩
    · show newKinds s (shiftBits js (shiftBit j s)) = _
      rw [newKinds_trans (linkStep_shiftBit j s).trace (linkStep_shiftBits js _).trace, shiftBit_trace, h2, hl]
      rfl
    · show (shiftBits js (shiftBit j s)).link.acc = _
      rw [h3, hl]
      rfl
    · exact h4.trans (by rw [hl])
    · exact h5.trans (by rw [hl])
    · exact h6.trans (by rw [hl])
    · exact h7.trans (shiftBit_wait j s)

/-- The shift of a frame is that of its bits 10 to 1, then of bit 0. -/
theorem shiftFrames_eq {s : State} (hc : configOk s.cfg = true) :
    shiftFrames s = shiftBit 0 (shiftBits [10, 9, 8, 7, 6, 5, 4, 3, 2, 1] s) := by
  rw [shiftFrames, frameBitOrder_of_configOk hc]
  rfl

/-- The last frame bit is the trailing pad, so a shift of two frames leaves the three lines low (40_link.md R127). -/
theorem shiftFrames_pins {s : State} (hc : configOk s.cfg = true) :
    (shiftFrames s).pins =
      { s.pins with sdi := s.link.dout.getLsbD 0, sii := s.link.iout.getLsbD 0, sci := false } := by
  have h := shiftFrames_eq hc
  obtain ⟨smp, -, -, -, h4, h5, -, -⟩ := shiftBits_spec [10, 9, 8, 7, 6, 5, 4, 3, 2, 1] s
  have hp := linkStep_shiftBits [10, 9, 8, 7, 6, 5, 4, 3, 2, 1] s
  rw [h, shiftBit_pins, h4, h5]
  have e1 := hp.rst
  have e2 := hp.vcc
  have e3 := hp.sdoOut
  simp only [e1, e2, e3]
  rfl

theorem shiftBit_unwritten (j : BitIdx) (s : State) :
    (shiftBit j s).unwritten = (s.unwritten.filter fun x => x ≠ .bidx).filter fun x => x ≠ .acc := by
  simp only [shiftBit_eq, sampleIn, pin_unwritten, put_unwritten, observe_unwritten]

theorem shiftFrames_linkStep (s : State) : LinkStep s (shiftFrames s) := linkStep_shiftBits _ s

theorem bidx_written_of_shiftFrames {s : State} (hc : configOk s.cfg = true) :
    Reg.bidx ∉ (shiftFrames s).unwritten := by
  rw [shiftFrames_eq hc, shiftBit_unwritten]
  simp

theorem shiftFrames_bidx {s : State} (hc : configOk s.cfg = true) : (shiftFrames s).link.bidx = 0 := by
  rw [shiftFrames_eq hc, shiftBit_link]

/-! ## The transfer -/

theorem linkStep_composeFrames (d i : Byte) (s : State) : LinkStep s (composeFrames d i s) :=
  ((linkStep_put _ _ (by decide)).trans (linkStep_put _ _ (by decide))).trans (linkStep_put _ _ (by decide))

@[simp] theorem composeFrames_link (d i : Byte) (s : State) :
    (composeFrames d i s).link = { s.link with dout := frameOf s.cfg.widths d, iout := frameOf s.cfg.widths i, acc := 0 } := by
  simp [composeFrames]

@[simp] theorem composeFrames_trace (d i : Byte) (s : State) : (composeFrames d i s).trace = s.trace := by
  simp [composeFrames]

@[simp] theorem composeFrames_pins (d i : Byte) (s : State) : (composeFrames d i s).pins = s.pins := by
  simp [composeFrames]

@[simp] theorem composeFrames_cfg (d i : Byte) (s : State) : (composeFrames d i s).cfg = s.cfg := by
  simp [composeFrames]

theorem linkStep_latchResult (s : State) : LinkStep s (latchResult s) := linkStep_put _ _ (by decide)

/-- The state in which the shift of a transfer begins. -/
abbrev transferReady (d i : Byte) (s : State) : State := waitReady (composeFrames d i s)

/-- What the wait of a transfer leaves for its shift: the configuration, the two frames and the cleared accumulator. -/
theorem transferReady_spec {d i : Byte} {s : State} (h : configOk s.cfg = true) :
    (transferReady d i s).cfg = s.cfg ∧ (transferReady d i s).pins = s.pins ∧
      (transferReady d i s).link
        = { s.link with dout := frameOf s.cfg.widths d, iout := frameOf s.cfg.widths i, acc := 0 } ∧
      LinkStep s (transferReady d i s) := by
  have hc : (composeFrames d i s).cfg.timing.pollMin ≠ 0 := by simpa using pollMin_ne_zero h
  have hw := waitReady_linkStep hc
  refine ⟨hw.cfg.trans (composeFrames_cfg d i s), ?_, ?_, (linkStep_composeFrames d i s).trans hw⟩
  · rw [waitReady_pins hc, composeFrames_pins]
  · rw [waitReady_link hc, composeFrames_link]

/-- What a transfer leaves alone, and that its time and trace only grow (40_link.md R126, R127). -/
theorem transfer_linkStep {d i : Byte} {s : State} (h : configOk s.cfg = true) : LinkStep s (transfer d i s) :=
  ((transferReady_spec h).2.2.2.trans (linkStep_shiftBits _ _)).trans (linkStep_latchResult _)

/-- What a transfer sends and returns (40_link.md R110 to R114). -/
theorem transfer_isTransfer {d i : Byte} {s : State} (h : configOk s.cfg = true) :
    IsTransfer s.cfg ⟨d, i⟩ (transfer d i s).link.rbyte s.now (newEvents s (transfer d i s))
      (transfer d i s).now := by
  have hc : (composeFrames d i s).cfg.timing.pollMin ≠ 0 := by simpa using pollMin_ne_zero h
  have hw := waitReady_linkStep hc
  have hi := waitReady_isWait hc
  obtain ⟨hcfg, -, hl, -⟩ := transferReady_spec (d := d) (i := i) h
  have hsf : shiftFrames (transferReady d i s) = shiftBits (frameBitOrder s.cfg.widths) (transferReady d i s) := by
    rw [shiftFrames, hcfg]
  have hsh := linkStep_shiftBits (frameBitOrder s.cfg.widths) (transferReady d i s)
  obtain ⟨smp, h1, h2, h3, -, -, -, -⟩ := shiftBits_spec (frameBitOrder s.cfg.widths) (transferReady d i s)
  have ht : (transfer d i s).trace = (shiftBits (frameBitOrder s.cfg.widths) (transferReady d i s)).trace := by
    rw [← hsf]
    simp [transfer, latchResult]
  have hn : (transfer d i s).now = (shiftBits (frameBitOrder s.cfg.widths) (transferReady d i s)).now := by
    rw [← hsf]
    simp [transfer, latchResult]
  have hn0 : (composeFrames d i s).now = s.now := by simp [composeFrames]
  rw [composeFrames_cfg, hn0] at hi
  have hev : newEvents s (transfer d i s)
      = newEvents (composeFrames d i s) (transferReady d i s)
        ++ newEvents (transferReady d i s) (shiftBits (frameBitOrder s.cfg.widths) (transferReady d i s)) := by
    rw [← newEvents_trans hw.trace hsh.trace, newEvents, newEvents, ht, composeFrames_trace]
  refine ⟨_, _, smp, (transferReady d i s).now, hev, hi, ?_, ?_, ?_, ?_, ?_⟩
  · simpa [frameBitOrder] using h1
  · show newKinds _ _ = _
    rw [h2, hl]
    rfl
  · rw [hn]
    exact eventsWithin_shiftBits _ _
  · rw [hn]
    exact hsh.now
  · have hr : (transfer d i s).link.rbyte = returnedByte s.cfg.widths
        (shiftBits (frameBitOrder s.cfg.widths) (transferReady d i s)).link.acc := by
      rw [← hsf, ← hcfg, ← (shiftFrames_linkStep (transferReady d i s)).cfg]
      simp [transfer, latchResult]
    rw [hr, h3, hl]
    rfl

/-- The lines after a transfer (40_link.md R127). -/
theorem transfer_pins {d i : Byte} {s : State} (h : configOk s.cfg = true) :
    (transfer d i s).pins = { s.pins with sci := false, sdi := false, sii := false } := by
  obtain ⟨hcfg, hp, hl, -⟩ := transferReady_spec (d := d) (i := i) h
  have hr : (transfer d i s).pins = (shiftFrames (transferReady d i s)).pins := by simp [transfer, latchResult]
  rw [hr, shiftFrames_pins (by rw [hcfg]; exact h), hl, hp]
  simp [frameOf_bit_zero h]

/-- The link registers after a transfer (40_link.md R111, R114, R127). -/
theorem transfer_link {d i : Byte} {s : State} (h : configOk s.cfg = true) :
    (transfer d i s).link.dout = frameOf s.cfg.widths d ∧ (transfer d i s).link.iout = frameOf s.cfg.widths i ∧
      (transfer d i s).link.bidx = 0 ∧
      (transfer d i s).link.rbyte = returnedByte s.cfg.widths (transfer d i s).link.acc := by
  obtain ⟨hcfg, -, hl, -⟩ := transferReady_spec (d := d) (i := i) h
  have hb := shiftFrames_bidx (s := transferReady d i s) (by rw [hcfg]; exact h)
  have hsc := (shiftFrames_linkStep (transferReady d i s)).cfg.trans hcfg
  obtain ⟨smp, -, -, -, h4, h5, -, -⟩ :=
    shiftBits_spec (frameBitOrder (transferReady d i s).cfg.widths) (transferReady d i s)
  rw [hl] at h4 h5
  refine ⟨?_, ?_, ?_, ?_⟩
  · simpa [transfer, latchResult, shiftFrames] using h4
  · simpa [transfer, latchResult, shiftFrames] using h5
  · simpa [transfer, latchResult] using hb
  · simp only [transfer, latchResult, put_rbyte_link, toNat_ofBits, BitVec.ofNat_toNat, BitVec.setWidth_eq]
    rw [hsc]

/-- What a wait writes: its start and its outcome. -/
theorem waitReady_written {s : State} (h : s.cfg.timing.pollMin ≠ 0) :
    Reg.wstart ∉ (waitReady s).unwritten ∧ Reg.wres ∉ (waitReady s).unwritten := by
  obtain ⟨k, -, hend, heq⟩ := waitReady_eq h
  rw [heq, pollsFrom_succ, pollOnce_unwritten_of_ends hend]
  refine ⟨fun hm => ?_, by simp⟩
  have h1 := (linkStep_pollsFrom (waitBegun s) k).unwrittenShrinks _ (List.mem_of_mem_filter hm)
  simp at h1

/-- Frame composition writes the two frames and the accumulator. -/
theorem composeFrames_written (d i : Byte) (s : State) :
    ∀ r ∈ [Reg.dout, .iout, .acc], r ∉ (composeFrames d i s).unwritten := by
  intro r hr
  simp only [List.mem_cons, List.not_mem_nil, or_false] at hr
  rcases hr with rfl | rfl | rfl <;> simp [composeFrames]

/-- A transfer writes every link register, so none of them is unwritten after it (70_reset_and_hazards.md R292). -/
theorem transfer_written {d i : Byte} {s : State} (h : configOk s.cfg = true) :
    ∀ r ∈ linkRegs, r ∉ (transfer d i s).unwritten := by
  have hc : (composeFrames d i s).cfg.timing.pollMin ≠ 0 := by simpa using pollMin_ne_zero h
  have hok : configOk (transferReady d i s).cfg = true := by rw [(transferReady_spec h).1]; exact h
  have hw := waitReady_linkStep hc
  have hsh := shiftFrames_linkStep (waitReady (composeFrames d i s))
  have hlr := linkStep_latchResult (shiftFrames (waitReady (composeFrames d i s)))
  have hcf := composeFrames_written d i s
  have hww := waitReady_written hc
  intro r hr hm
  have m1 : r ∈ (shiftFrames (waitReady (composeFrames d i s))).unwritten := hlr.unwrittenShrinks r hm
  have m2 := hsh.unwrittenShrinks r m1
  have m3 := hw.unwrittenShrinks r m2
  simp only [linkRegs, List.mem_cons, List.not_mem_nil, or_false] at hr
  rcases hr with rfl | rfl | rfl | rfl | rfl | rfl | rfl
  · exact hcf _ (by decide) m3
  · exact hcf _ (by decide) m3
  · exact hcf _ (by decide) m3
  · exact bidx_written_of_shiftFrames hok m1
  · simp only [transfer, latchResult, put_unwritten, List.mem_filter] at hm
    simp at hm
  · exact hww.1 m2
  · exact hww.2 m2

/-! ## Sequences of transfers -/

theorem transferAll_cons (p : FramePair) (ps : List FramePair) (s : State) :
    transferAll (p :: ps) s = transferAll ps (transfer p.sdi p.sii s) := rfl

theorem transferAll_append (ps qs : List FramePair) (s : State) :
    transferAll (ps ++ qs) s = transferAll qs (transferAll ps s) := by
  simp [transferAll]

theorem transferAll_linkStep {ps : List FramePair} {s : State} (h : configOk s.cfg = true) :
    LinkStep s (transferAll ps s) := by
  induction ps generalizing s with
  | nil => exact LinkStep.refl s
  | cons p ps ih =>
    have ht := transfer_linkStep (d := p.sdi) (i := p.sii) h
    rw [transferAll_cons]
    exact ht.trans (ih (by rw [ht.cfg]; exact h))

/-- One run of the link after another. -/
theorem isLinkRun_append {c : Config} {ops1 ops2 : List LinkOp} {bs1 bs2 : List Byte} {evs1 evs2 : List Event}
    {begun mid ended : Nat} (h1 : IsLinkRun c ops1 bs1 begun evs1 mid) (h2 : IsLinkRun c ops2 bs2 mid evs2 ended) :
    IsLinkRun c (ops1 ++ ops2) (bs1 ++ bs2) begun (evs1 ++ evs2) ended := by
  induction ops1 generalizing bs1 evs1 begun with
  | nil =>
    cases bs1 with
    | nil =>
      obtain ⟨rfl, rfl⟩ := h1
      exact h2
    | cons b bs => exact h1.elim
  | cons o ops ih =>
    cases o with
    | send p =>
      cases bs1 with
      | nil => exact h1.elim
      | cons b bs =>
        obtain ⟨e1, e2, m, rfl, ht, hr⟩ := h1
        exact ⟨e1, e2 ++ evs2, m, List.append_assoc .., ht, ih hr⟩
    | wait =>
      have hw : ∃ e1 e2 m, evs1 = e1 ++ e2 ∧ IsWait c.timing begun e1 m ∧ IsLinkRun c ops bs1 m e2 mid := by
        cases bs1 <;> exact h1
      obtain ⟨e1, e2, m, rfl, ht, hr⟩ := hw
      have hc : ∃ f1 f2 n, e1 ++ e2 ++ evs2 = f1 ++ f2 ∧ IsWait c.timing begun f1 n ∧
          IsLinkRun c (ops ++ ops2) (bs1 ++ bs2) n f2 ended :=
        ⟨e1, e2 ++ evs2, m, List.append_assoc .., ht, ih hr⟩
      cases h : bs1 ++ bs2 <;> rw [h] at hc <;> exact hc

/-- What a sequence sends and returns (30_encoding.md R84, R86); the last byte returned is left in `rbyte`. -/
theorem transferAll_isLinkRun {ps : List FramePair} {s : State} (h : configOk s.cfg = true) :
    ∃ bs, bs.length = ps.length ∧
      IsLinkRun s.cfg (sends ps) bs s.now (newEvents s (transferAll ps s)) (transferAll ps s).now ∧
      bs.getLastD s.link.rbyte = (transferAll ps s).link.rbyte := by
  induction ps generalizing s with
  | nil => exact ⟨[], rfl, by simp [sends, IsLinkRun, transferAll], rfl⟩
  | cons p ps ih =>
    have ht := transfer_linkStep (d := p.sdi) (i := p.sii) h
    have hc : configOk (transfer p.sdi p.sii s).cfg = true := by rw [ht.cfg]; exact h
    obtain ⟨bs, h1, h2, h3⟩ := ih hc
    rw [ht.cfg] at h2
    refine ⟨(transfer p.sdi p.sii s).link.rbyte :: bs, by simp [h1], ?_, ?_⟩
    · exact ⟨_, _, _, newEvents_trans ht.trace (transferAll_linkStep hc).trace, transfer_isTransfer h, h2⟩
    · rw [transferAll_cons, ← h3]
      cases bs <;> rfl

/-- The lines after a sequence that is not empty (40_link.md R127). -/
theorem transferAll_pins {ps : List FramePair} {s : State} (h : configOk s.cfg = true) (hne : ps ≠ []) :
    (transferAll ps s).pins = { s.pins with sci := false, sdi := false, sii := false } := by
  induction ps generalizing s with
  | nil => exact absurd rfl hne
  | cons p ps ih =>
    have ht := transfer_linkStep (d := p.sdi) (i := p.sii) h
    rw [transferAll_cons]
    cases ps with
    | nil => exact transfer_pins h
    | cons q qs => rw [ih (by rw [ht.cfg]; exact h) (by simp), transfer_pins h]

/-- A sequence that is not empty writes every link register. -/
theorem transferAll_written {ps : List FramePair} {s : State} (h : configOk s.cfg = true) (hne : ps ≠ []) :
    ∀ r ∈ linkRegs, r ∉ (transferAll ps s).unwritten := by
  induction ps generalizing s with
  | nil => exact absurd rfl hne
  | cons p ps ih =>
    have ht := transfer_linkStep (d := p.sdi) (i := p.sii) h
    rw [transferAll_cons]
    cases ps with
    | nil => exact transfer_written h
    | cons q qs => exact ih (by rw [ht.cfg]; exact h) (by simp)

end Sys2Proof.Machine
end

