-- ==== Sys2Proof/Tests/Slice0.lean ====
section
/-! SUPPORT. Tests of one operation or one step each, with expected results from spec/95_test_vectors.md or written out
from the rule named; and, for each statement with hypotheses, a state that meets them all. -/

namespace Sys2Proof.Tests

open Sys2Proof Sys2Proof.Machine

-- one test at a time: a kernel evaluation that waits for the ones before it holds a thread of its own
set_option Elab.async false

/-! ## Helpers -/

/-- The reset state with the least durations and the target's next answers given. -/
def answering (smp : List Bool) : State :=
  { State.reset with env := { samples := smp, delays := List.replicate 1500 0, draws := 0, opens := 0 } }

/-- The answers of one transfer that finds the target ready and returns `b` with low pads (95_test_vectors.md section
2.2, last row). -/
def reply (b : Byte) : List Bool :=
  [true, false] ++ [7, 6, 5, 4, 3, 2, 1, 0].map (fun k => b.getLsbD k) ++ [false, false]

/-- `true` where an answer is a next state that passes the test `f`. -/
def nextIs (r : Result) (f : State → Bool) : Bool :=
  match r with
  | .next t => f t
  | _ => false

def isFault (r : Result) (f : Fault) : Bool :=
  match r with
  | .fault g => f = g
  | _ => false

def isRefusal (r : Result) (f : Refusal) : Bool :=
  match r with
  | .refused g => f = g
  | _ => false

/-- The reset configuration with another readiness timeout and polling interval. -/
def pacedConfig (timeout poll : Nat) : Config :=
  { Config.default with timing := { Timing.default with readyTimeout := timeout, pollMin := poll } }

/-- The events of an operation, without their times. -/
def kindsOf (t : State) : List EventKind := t.trace.map (·.kind)

/-- The levels written to one latch. -/
def levelsOn (r : Role) (ks : List EventKind) : List Bool :=
  ks.filterMap fun k => match k with | .level q b => if q = r then some b else none | _ => none

/-! ## Well-formedness: each check refuses an ill-formed term -/

theorem test_wf_empty_set : (Instr.set []).wellFormed = false := by decide
theorem test_wf_twice : (Instr.set [⟨.acc, .num 0⟩, ⟨.acc, .num 1⟩]).wellFormed = false := by decide
theorem test_wf_field_bounds : (Instr.set [⟨.acc, .un (.field 2 9) (.reg .acc)⟩]).wellFormed = false := by decide
theorem test_wf_frame_zero : (Instr.set [⟨.acc, .atom (.cmdSii .rdL 0)⟩]).wellFormed = false := by decide
theorem test_wf_frame_past_end :
    (Instr.set [⟨.acc, .bin .add (.num 1) (.atom (.cmdSdi .rdL 4))⟩]).wellFormed = false := by decide
theorem test_wf_signature_index : (Instr.set [⟨.acc, .atom (.sigIndex 2)⟩]).wellFormed = false := by decide
theorem test_wf_last_frame : (Instr.set [⟨.acc, .atom (.cmdSdi .wrL 4)⟩]).wellFormed = true := by decide
theorem test_wf_signature_update : (expandAccumulate Widths.default).wellFormed = true := by decide

/-! ## Decoding: words written out from 30_encoding.md R81, R86, R90 -/

theorem test_decode_xfer : decodeTableWord 16 0b0000010001001100 = some (.xfer 0x04 0x4C) := by decide
theorem test_decode_rdsb :
    decodePairs Config.default [⟨0x08, 0x4C⟩, ⟨0x02, 0x0C⟩, ⟨0x00, 0x68⟩, ⟨0x00, 0x6C⟩] = .ok (.rdsb 2) := by
  decide
theorem test_decode_rdsig :
    decodePairs Config.default [⟨0x08, 0x4C⟩, ⟨0x01, 0x0C⟩, ⟨0x00, 0x68⟩, ⟨0x00, 0x6C⟩,
      ⟨0x08, 0x4C⟩, ⟨0x02, 0x0C⟩, ⟨0x00, 0x68⟩, ⟨0x00, 0x6C⟩] = .ok .rdsig := by
  decide
theorem test_decode_rdfL :
    decodePairs Config.default [⟨0x04, 0x4C⟩, ⟨0x00, 0x68⟩, ⟨0x00, 0x6C⟩] = .ok .rdfL := by decide
theorem test_decode_rdfH :
    decodePairs Config.default [⟨0x04, 0x4C⟩, ⟨0x00, 0x7A⟩, ⟨0x00, 0x7E⟩] = .ok .rdfH := by decide
theorem test_decode_rdfE :
    decodePairs Config.default [⟨0x04, 0x4C⟩, ⟨0x00, 0x6A⟩, ⟨0x00, 0x6E⟩] = .ok .rdfE := by decide
theorem test_decode_rdlk :
    decodePairs Config.default [⟨0x04, 0x4C⟩, ⟨0x00, 0x78⟩, ⟨0x00, 0x7C⟩] = .ok .rdlk := by decide
theorem test_decode_wrfL :
    decodePairs Config.default [⟨0x40, 0x4C⟩, ⟨0x62, 0x2C⟩, ⟨0x00, 0x64⟩, ⟨0x00, 0x6C⟩] = .ok (.wrfL 0x62) := by
  decide
theorem test_decode_wrfH :
    decodePairs Config.default [⟨0x40, 0x4C⟩, ⟨0xDF, 0x2C⟩, ⟨0x00, 0x74⟩, ⟨0x00, 0x7C⟩] = .ok (.wrfH 0xDF) := by
  decide
theorem test_decode_wrfE :
    decodePairs Config.default [⟨0x40, 0x4C⟩, ⟨0xFF, 0x2C⟩, ⟨0x00, 0x66⟩, ⟨0x00, 0x6E⟩] = .ok (.wrfE 0xFF) := by
  decide
theorem test_decode_erase : decodeTableWord 48 0x804C0064006C = some .erase := by decide
theorem test_decode_rejects_probe_of_no_selector :
    decodePairs Config.default [⟨0x04, 0x4C⟩, ⟨0x00, 0x69⟩, ⟨0x00, 0x6C⟩] = .error .noSuchSequence := by decide
theorem test_decode_rejects_two_pairs :
    decodePairs Config.default [⟨0x04, 0x4C⟩, ⟨0x00, 0x68⟩] = .error (.badLength 2) := by decide
theorem test_decode_rejects_half_a_pair : decodeBytes Config.default [0x04] = .error .oddBytes := by decide

/-! ## Steps from reset -/

theorem test_step_runs_table_word :
    nextIs (step (State.reset.withFetchWord 128 0x084C010C0068006C084C020C0068006C)) (fun _ => true) = true := by
  decide +kernel
theorem test_step_refuses_foreign_pairs :
    isRefusal (step (issueWords [⟨0x04, 0x4C⟩, ⟨0x00, 0x69⟩, ⟨0x00, 0x6C⟩] State.reset))
      (.undecodable .noSuchSequence) = true := by decide +kernel
theorem test_step_trigger :
    nextIs (step (hostTrigger State.reset))
      (fun t => t.pc = { phase := .pEnter, upc := 0 } ∧ t.sess.action = .writeDefaults ∧ t.host.trigger = false)
      = true := by decide +kernel

/-! ## Frames and results (95_test_vectors.md sections 2.1, 2.2) -/

theorem test_frame_df : frameOf Widths.default 0xDF = 0x37C := by decide
theorem test_frame_a5 : frameOf Widths.default 0xA5 = 0x294 := by decide
theorem test_result_first_sample_discarded : returnedByte Widths.default 0x400 = 0x00 := by decide
theorem test_result_pads_discarded : returnedByte Widths.default 0x696 = 0xA5 := by decide

/-- 95_test_vectors.md section 2.2: "0xA5 with set pads". -/
theorem test_xfer_samples :
    nextIs (exec (.xfer 0x04 0x4C)
        (answering [true, true, true, false, true, false, false, true, false, true, true, false]))
      (fun t => t.link.acc = 0x696 ∧ t.link.rbyte = 0xA5 ∧ t.trace.length = 56) = true := by decide +kernel

/-- 95_test_vectors.md section 2.2: the data lines of `XFER 0x62, 0x2C`. -/
theorem test_xfer_lines :
    nextIs (exec (.xfer 0x62 0x2C) (answering (reply 0)))
      (fun t => levelsOn .sdi (kindsOf t)
          = [false, false, true, true, false, false, false, true, false, false, false] ∧
        levelsOn .sii (kindsOf t)
          = [false, false, false, true, false, true, true, false, false, false, false]) = true := by decide +kernel

/-! ## The readiness wait (95_test_vectors.md section 2.3) -/

theorem test_wait_expires_at_deadline :
    nextIs (exec .waitrdy { answering [false, false, false, true] with cfg := pacedConfig 10 5 })
      (fun t => t.wait.wres = .expired ∧ t.trace.length = 3 ∧ t.now = 10) = true := by decide +kernel
theorem test_wait_high_wins_at_deadline :
    nextIs (exec .waitrdy { answering [false, false, true] with cfg := pacedConfig 10 5 })
      (fun t => t.wait.wres = .ready ∧ t.trace.length = 3) = true := by decide +kernel

/-- 40_link.md R115 with `T_POLL_MIN` not dividing `T_READY_TIMEOUT`: low samples at 0, 3, 6, 9 and 12 ns (log 13). -/
theorem test_wait_uneven_interval :
    nextIs (exec .waitrdy { answering (List.replicate 9 false) with cfg := pacedConfig 10 3 })
      (fun t => t.wait.wres = .expired ∧ t.trace.length = 5 ∧ t.now = 12) = true := by decide +kernel

/-! ## Micro-operations (95_test_vectors.md section 2.4) -/

theorem test_pin_same_level_still_appends :
    nextIs (exec (.pin .sci false) (answering [])) (fun t => t.trace = [⟨0, .level .sci false⟩]) = true := by
  decide +kernel
theorem test_pin_keeps_edges_apart :
    nextIs (exec (.pin .sdi true)
        { answering [] with
          cfg := { Config.default with timing := { Timing.default with edgeMin := some 7 } }
          trace := [⟨2, .level .sci true⟩], now := 3 })
      (fun t => t.trace = [⟨2, .level .sci true⟩, ⟨9, .level .sdi true⟩]) = true := by decide +kernel
theorem test_dir_in :
    nextIs (exec (.dir .input) { answering [] with sdoDir := .output })
      (fun t => t.sdoDir = .input ∧ t.trace = [⟨0, .dir .input⟩]) = true := by decide +kernel
theorem test_delay_stable :
    nextIs (exec (.delay .pmStable) (answering [])) (fun t => t.now = 300000 ∧ t.trace = []) = true := by
  decide +kernel
theorem test_sample_truncates :
    nextIs (exec .sample ((answering [false]).put .acc (.num 0x7FF)))
      (fun t => t.link.acc = 0x7FE ∧ kindsOf t = [.sample false]) = true := by decide +kernel
theorem test_sample_while_output :
    isFault (exec .sample { (answering [true]).put .acc (.num 1) with sdoDir := .output }) .sampleWhileOutput
      = true := by decide +kernel
theorem test_poll_goes_on :
    nextIs (exec .poll ((answering [false]).put .wstart (.num 0)))
      (fun t => t.wait.wres = .none ∧ t.now = 1 ∧ t.link.acc = 0) = true := by decide +kernel
/-- A POLL while `wstart` lies in the future: it runs, and the free outcome of its test is counted (log 36). -/
theorem test_poll_before_start :
    nextIs (exec .poll ((answering [true]).put .wstart (.num 9))) (fun t => t.env.opens = 0) = true ∧
      deadlineOpen ((answering [false]).put .wstart (.num 9)) = true := by decide +kernel
theorem test_set_sig_zero :
    nextIs (exec (.set [⟨.sig, .num 0⟩]) { answering [] with ident := { sig := 0x930B, desc := none } })
      (fun t => t.ident.sig = 0 ∧ t.now = 0 ∧ t.trace = []) = true := by decide +kernel

/-- 40_link.md R110, 95_test_vectors.md section 2.1: `dout <- zext_11(d) << 2` for 0xDF. -/
theorem test_set_frame_as_shift :
    nextIs (exec (.set [⟨.dout, .un (.shl 2) (.un (.zext 11) (.num 0xDF))⟩]) (answering []))
      (fun t => t.link.dout = 0x37C ∧ t.env.opens = 0) = true := by decide +kernel

/-- A value that the register cannot hold, a row of an unknown device, a register named twice: the SET runs, and what
the spec does not state is counted (log 21, log 24, log 34). -/
theorem test_set_too_wide_runs :
    nextIs (exec (.set [⟨.rbyte, .num 256⟩, ⟨.acc, .num 5⟩]) (answering []))
      (fun t => t.env.opens = 1 ∧ t.link.acc = 5 ∧ Reg.rbyte ∉ t.unwritten ∧ t.now = 0) = true := by decide +kernel
theorem test_set_row_of_unknown_runs :
    nextIs (exec (.set [⟨.oFuseL0, .un (.row .lfuse) (.reg .desc)⟩]) { answering [] with unwritten := [] })
      (fun t => t.env.opens = 1 ∧ t.trace = []) = true := by decide +kernel
theorem test_set_twice_runs :
    nextIs (exec (.set [⟨.acc, .num 0⟩, ⟨.acc, .num 1⟩]) (answering [])) (fun t => t.env.opens = 1) = true := by
  decide +kernel

/-- 95_test_vectors.md section 2.10: a micro-program that reads `rbyte` before any XFER (recorded, log 8). -/
theorem test_set_reads_unwritten :
    nextIs (exec (.set [⟨.oFuseL0, .reg .rbyte⟩]) State.reset)
      (fun t => t.readUnwritten ∧ t.outcome.fuseL0 = some 0) = true := by decide +kernel

/-- 40_link.md R124: a POLL from reset with a low sample goes on, and its read of `wstart` is recorded (log 8). -/
theorem test_poll_from_reset :
    nextIs (exec .poll (answering [false])) (fun t => t.readUnwritten ∧ t.wait.wres = .none ∧ t.now = 1) = true := by
  decide +kernel

/-! ## Power (95_test_vectors.md section 2.5) -/

theorem test_enter_events :
    nextIs (exec .enter (answering []))
      (fun t => t.trace = [⟨0, .level .sdi false⟩, ⟨0, .level .sii false⟩, ⟨0, .level .sdoOut false⟩,
        ⟨0, .dir .output⟩, ⟨0, .level .rst true⟩, ⟨0, .level .vcc true⟩, ⟨20000, .level .rst false⟩,
        ⟨30000, .dir .input⟩] ∧ t.now = 330000) = true := by decide +kernel
theorem test_exit_events :
    nextIs (exec .exit { answering [] with pins := Lines.powered })
      (fun t => kindsOf t = [.level .sci false, .level .vcc false, .level .rst true] ∧ t.pins = Lines.resting)
      = true := by decide +kernel

/-! ## Identify (95_test_vectors.md section 2.6) -/

theorem test_rdsb_fourth_byte :
    nextIs (exec (.rdsb 1) (answering (reply 1 ++ reply 2 ++ reply 3 ++ reply 0x93)))
      (fun t => t.link.rbyte = 0x93 ∧ t.link.iout = 0x1B0) = true := by decide +kernel
theorem test_rdsig_order :
    nextIs (exec .rdsig (answering (reply 0 ++ reply 0 ++ reply 0 ++ reply 0x93
        ++ reply 0 ++ reply 0 ++ reply 0 ++ reply 0x0B)))
      (fun t => t.ident.sig = 0x930B) = true := by decide +kernel
theorem test_classify_row6 :
    nextIs (exec (.classify (some 0x930B)) State.reset) (fun t => t.ident.desc = some 6) = true := by decide +kernel
theorem test_classify_one_bit_off :
    nextIs (exec (.classify none) (State.reset.put .sig (.num 0x930A))) (fun t => t.ident.desc = none) = true := by
  decide +kernel

/-! ## Fuses, lock and erase (95_test_vectors.md sections 2.7, 2.8) -/

theorem test_rdfL : nextIs (exec .rdfL (answering (reply 0 ++ reply 0 ++ reply 0x62)))
    (fun t => t.link.rbyte = 0x62 ∧ t.link.iout = 0x1B0) = true := by decide +kernel
theorem test_rdfH : nextIs (exec .rdfH (answering (reply 0 ++ reply 0 ++ reply 0xDF)))
    (fun t => t.link.rbyte = 0xDF ∧ t.link.iout = 0x1F8) = true := by decide +kernel
theorem test_rdfE : nextIs (exec .rdfE (answering (reply 0 ++ reply 0 ++ reply 0xFF)))
    (fun t => t.link.rbyte = 0xFF ∧ t.link.iout = 0x1B8) = true := by decide +kernel
theorem test_rdlk_events : nextIs (exec .rdlk (answering (reply 0 ++ reply 0 ++ reply 0xFD ++ [true])))
    (fun t => t.link.rbyte = 0xFD ∧ t.trace.length = 169) = true := by decide +kernel
theorem test_lock_decode : (isLocked 0xFF, isLocked 0x03, isLocked 0xFD, isLocked 0xFE, isLocked 0xFC)
    = (false, false, false, true, true) := by decide
theorem test_wrfL_value_line :
    nextIs (exec (.wrfL 0x62) (answering (reply 0 ++ reply 0 ++ reply 0 ++ reply 0)))
      (fun t => ((levelsOn .sdi (kindsOf t)).drop 11).take 11
          = [false, false, true, true, false, false, false, true, false, false, false] ∧
        t.link.iout = 0x1B0) = true := by decide +kernel
theorem test_wrfH_address : nextIs (exec (.wrfH 0xDF) (answering (reply 0 ++ reply 0 ++ reply 0 ++ reply 0)))
    (fun t => ((levelsOn .sii (kindsOf t)).drop 22).take 11
        = [false, false, true, true, true, false, true, false, false, false, false] ∧ t.link.iout = 0x1F0)
      = true := by decide +kernel
theorem test_wrfE_address : nextIs (exec (.wrfE 0xFF) (answering (reply 0 ++ reply 0 ++ reply 0 ++ reply 0)))
    (fun t => t.link.iout = 0x1B8 ∧ t.trace.length = 224) = true := by decide +kernel
theorem test_erase_events : nextIs (exec .erase (answering (reply 0 ++ reply 0 ++ reply 0 ++ [true])))
    (fun t => t.link.iout = 0x1B0 ∧ t.trace.length = 169 ∧ t.wait.wres = .ready) = true := by decide +kernel

/-! ## The session (95_test_vectors.md P5) -/

theorem test_session_unknown_signature :
    nextIs (exec (.session (some .readOnly)) (answering (reply 0 ++ reply 0 ++ reply 0 ++ reply 0x12
        ++ reply 0 ++ reply 0 ++ reply 0 ++ reply 0x34)))
      (fun t => t.outcome.signature = some 0x1234 ∧ t.outcome.device = some none ∧ t.outcome.fuseL0 = none ∧
        t.trace.length = 459 ∧ t.now = 330000 ∧ t.link.acc = 0x0D0 ∧ t.unwritten.length = 0) = true := by
  decide +kernel

/-! ## Configurations that are refused (95_test_vectors.md section 2.10) -/

theorem test_default_config_is_valid : configOk Config.default = true := by decide
theorem test_config_duplicate_pin :
    configOk { Config.default with pinmap := { PinMap.default with sci := 4 } } = false := by decide
theorem test_config_read_of_four_pairs :
    configOk { Config.default with cmd := { CmdTable.default with rdL := CmdTable.default.rdsb } } = false := by
  decide
theorem test_config_equal_addresses :
    configOk { Config.default with fuseAddr := { FuseAddr.default with low := 0x747C } } = false := by decide
theorem test_config_equal_signatures :
    configOk { Config.default with desc := Config.default.desc.set 5 ⟨0x930B, .fam3, 0x62, 0xDF, some 0xFF⟩ } = false := by decide
theorem test_config_poll_zero : configOk (pacedConfig 10 0) = false := by decide

/-- 43_fuse_lock.md R185: frame 3 of a fuse write has `PAD_DATA` on SDI (log 27). -/
theorem test_config_address_frame_with_data :
    configOk { Config.default with cmd := { CmdTable.default with
      wrH := [⟨.byte 0x40, 0x4C⟩, ⟨.operand, 0x2C⟩, ⟨.byte 0x55, 0x74⟩, ⟨.pad, 0x7C⟩] } } = false := by decide
/-- 00_scope.md R10, R11: the pads are arguments that fill the frame, a frame of another width is refused (log 31). -/
theorem test_config_other_pads :
    configOk { Config.default with widths := { Widths.default with padLead := 2, padTrail := 1 } } = true ∧
      frameOf { Widths.default with padLead := 2, padTrail := 1 } 0xDF = 0x1BE := by decide
theorem test_config_pads_too_short :
    configOk { Config.default with widths := { Widths.default with padLead := 2 } } = false := by decide
theorem test_config_other_frame :
    configOk { Config.default with widths := { Widths.default with frameBits := 12, padLead := 2 } } = false := by
  decide
theorem test_config_row_against_family :
    configOk { Config.default with desc := [⟨0x9007, .fam2, 0x6A, 0xFF, some 0xFF⟩] } = false := by decide

/-- 95_test_vectors.md section 2.10: a host read before any session. -/
theorem test_outcome_refused_at_reset :
    (match hostReadOutcome State.reset with | .refused .outcomeNotValid => true | _ => false) = true := by decide

/-! ## Witnesses: for each statement with hypotheses, a state that meets them -/

/-- The state of an engine inside a session, at micro-operation `upc` of a phase, with every register written and
row 6 of `DESC` identified. -/
def inPhase (p : Phase) (upc : Nat) : State :=
  { State.reset with
    pc := { phase := p, upc := upc }
    pins := Lines.powered
    ident := { sig := 0x930B, desc := some 6 }
    unwritten := [] }

theorem witness_configured_listening : configOk State.reset.cfg = true ∧ State.reset.sdoDir = .input := by decide
theorem witness_BadConfigRefusesEverything : configOk (State.resetWith (pacedConfig 10 0)).cfg = false := by decide
theorem witness_BadConfigConditions_duplicate_pin :
    ¬ [0, 1, 4, 3, 4, 5].Nodup ∧
      configOk { Config.default with pinmap := { PinMap.default with sci := 4 } } = false := by decide
theorem witness_ConfigurationIsNeverWritten :
    nextIs (step State.reset) (fun t => t.cfg = Config.default) = true ∧
      nextIs (exec (.dir .output) State.reset) (fun t => t.cfg = Config.default) = true := by decide +kernel
theorem witness_TimeAndTraceOnlyGrow :
    nextIs (step State.reset) (fun _ => true) = true ∧ nextIs (exec .enter State.reset) (fun _ => true) = true := by
  decide +kernel
theorem witness_OutcomeReadRefusedWhileNotValid : State.reset.outcome.valid = false := by decide
theorem witness_HostReadsFinishedSession :
    configOk State.reset.cfg = true ∧ State.reset.pc.phase = .idle := by decide
theorem witness_DecodeOfEncode :
    configOk Config.default = true ∧
    encode Config.default (.wrfL 0xFF) = some [⟨0x40, 0x4C⟩, ⟨0xFF, 0x2C⟩, ⟨0x00, 0x64⟩, ⟨0x00, 0x6C⟩] := by decide
theorem witness_EncodeOfDecode :
    configOk Config.default = true ∧
    decodePairs Config.default [⟨0x08, 0x4C⟩, ⟨0x00, 0x0C⟩, ⟨0x00, 0x68⟩, ⟨0x00, 0x6C⟩] = .ok (.rdsb 0) := by decide
theorem witness_OtherLengthsAreRefused : ([] : List FramePair).length ∉ [1, 3, 4, 8] := by decide
theorem witness_ReturnedByteOfSamples :
    configOk Config.default = true ∧ [true, true, false, true, false, false, true, false, true, true, false].length = 11 := by decide
theorem witness_PinWritesOneLatch :
    configOk State.reset.cfg = true ∧ Role.rst ≠ .sdi ∧
      (let c : Config := { Config.default with timing := { Timing.default with edgeMin := some 7 } }
       configOk c = true ∧ c.timing.edgeMin = some 7 ∧ (pinTimes [⟨2, .level .sci true⟩]).getLast? = some 2) := by
  decide
theorem witness_SampleShiftsIntoAccumulator :
    configOk (State.reset.put .acc (.num 1)).cfg = true ∧ (State.reset.put .acc (.num 1)).sdoDir = .input ∧
      Reg.acc ∉ (State.reset.put .acc (.num 1)).unwritten ∧ Reg.acc ∈ State.reset.unwritten := by decide
theorem witness_PadsFillTheFrame : configOk Config.default = true ∧ 0 < Config.default.widths.padTrail := by decide
theorem witness_PollTakesOneExitOrGoesOn :
    configOk (State.reset.put .wstart (.num 0)).cfg = true ∧ (State.reset.put .wstart (.num 0)).sdoDir = .input ∧
      Reg.wstart ∉ (State.reset.put .wstart (.num 0)).unwritten ∧ Reg.wstart ∈ State.reset.unwritten := by decide
theorem witness_SetWritesItsExpressions :
    configOk (inPhase .pRead 0).cfg = true ∧
      ([⟨.oWrittenE, .un (.row .efuse) (.reg .desc)⟩, ⟨.rbyte, .num 256⟩].map Assign.reg).Nodup ∧
      kindAccepts 7 Reg.oWrittenE.ty (evalExpr (inPhase .pRead 0) (.un (.row .efuse) (.reg .desc)) [0, 0]) = true ∧
      kindAccepts 7 Reg.rbyte.ty (evalExpr (inPhase .pRead 0) (.num 256) [0, 1]) = false := by decide
theorem witness_EverySetRuns :
    configOk State.reset.cfg = true ∧
      nextIs (exec (.set [⟨.acc, .bin .sub (.num 1) (.reg .acc)⟩, ⟨.acc, .num 1⟩]) State.reset) (fun _ => true)
        = true := by decide +kernel
theorem witness_ExpressionsOfTheRules :
    configOk State.reset.cfg = true ∧ State.reset.wait.wstart ≤ State.reset.now := by decide
theorem witness_SamplesAreTheTargetsAnswers :
    nextIs (exec .poll ((answering [true]).put .wstart (.num 0)))
      (fun t => t.trace = [] ++ ⟨0, .sample true⟩ :: []) = true ∧
    (answering [true]).trace.length ≤ ([] : List Event).length ∧
    nextIs (step { inPhase .pRead 3 with env := (answering [true]).env })
      (fun t => t.trace.map isSampleEvent = [true]) = true := by decide +kernel
theorem witness_OperationsSendPairsOfCmd : configOk Config.default = true := by decide
theorem witness_ReadOfUnwrittenRegisterIsRecorded :
    configOk (answering [false]).cfg = true ∧ (answering [false]).sdoDir = .input ∧
      Reg.acc ∈ (answering [false]).unwritten ∧ Reg.wstart ∈ (answering [false]).unwritten ∧
      (answering [false]).sdoLevel = false ∧ Reg.sig ∈ (answering [false]).unwritten ∧
      Reg.rbyte ∈ exprReads (.reg .rbyte) ∧
      Reg.rbyte ∈ (answering [false]).unwritten ∧ Reg.oLb1 ∈ outcomeFields ∧
      Reg.oLb1 ∈ (answering [false]).unwritten ∧ (State.reset.put .oValid (.num 1)).outcome.valid = true ∧
      Reg.oLb1 ∈ (State.reset.put .oValid (.num 1)).unwritten := by decide
theorem witness_RecordedFaultStays :
    let s : State := { (answering [true]).put .oValid (.num 1) with readUnwritten := true }
    s.readUnwritten = true ∧ nextIs (exec .poll s) (fun _ => true) = true ∧ nextIs (step s) (fun _ => true) = true ∧
      (match hostReadOutcome s with | .next (o, _) => decide (o = s.outcome) | _ => false) = true := by decide +kernel
theorem witness_SamplingWhileOutputFaults :
    configOk { State.reset with sdoDir := .output }.cfg = true ∧
      { State.reset with sdoDir := .output }.sdoDir = .output := by decide
theorem witness_ClassifyFindsExactMatch :
    configOk (State.reset.put .sig (.num 0x9007)).cfg = true ∧
      Reg.sig ∉ (State.reset.put .sig (.num 0x9007)).unwritten ∧ Reg.sig ∈ State.reset.unwritten := by decide
theorem witness_LockDecodeIsBitZero : (0xFE : Byte).getLsbD 0 = (0x00 : Byte).getLsbD 0 := by decide
theorem witness_WaitOutcomeIsHidden :
    ∀ as, Instr.set [⟨.acc, .reg .rbyte⟩] = .set as → Reg.wres ∉ setReads as := by
  intro as h
  cases h
  decide
theorem witness_SessionIgnoredOutsideIdle :
    configOk (inPhase .pRead 0).cfg = true ∧ (inPhase .pRead 0).pc.phase ≠ .idle := by decide
theorem witness_TriggerStartsSession :
    configOk (hostTrigger State.reset).cfg = true ∧ (hostTrigger State.reset).pc.phase = .idle ∧
      (hostTrigger State.reset).host.trigger = true := by decide
theorem witness_PhaseGraph :
    configOk (inPhase .pExit 4).cfg = true ∧ (inPhase .pExit 4).pc.phase ≠ .idle ∧
      (uprog (inPhase .pExit 4).pc.phase (inPhase .pExit 4)).length ≤ (inPhase .pExit 4).pc.upc := by decide

/-- The boundaries of the statement's branches: an unknown device, and each action after P_READ. -/
theorem witness_PhaseGraph_branches :
    (uprog .pUnknown (inPhase .pUnknown 0)).length ≤ (inPhase .pUnknown 0).pc.upc ∧
      (uprog .pRead (inPhase .pRead 862)).length ≤ (inPhase .pRead 862).pc.upc ∧
      (uprog .pErase (inPhase .pErase 219)).length ≤ (inPhase .pErase 219).pc.upc ∧
      (uprog .pIdent { inPhase .pIdent 574 with ident := { sig := 0, desc := none } }).length ≤ 574 := by
  decide +kernel
theorem witness_StepRunsMicroOperation :
    configOk (inPhase .pExit 1).cfg = true ∧ (inPhase .pExit 1).pc.phase ≠ .idle ∧
      (uprog .pExit (inPhase .pExit 1))[1]? = some (.pin .vcc false) ∧
      inPhase .pExit 1 = { inPhase .pExit 1 with
        host := { (inPhase .pExit 1).host with trigger := false }
        readUnwritten := (inPhase .pExit 1).readUnwritten ||
          decide (((inPhase .pExit 1).pc.phase ∈ [Phase.pRead, .pWrite, .pVerify] ∧
              Reg.desc ∈ (inPhase .pExit 1).unwritten) ∨
            ((inPhase .pExit 1).pc.phase = .pVerify ∧ Reg.erased ∈ (inPhase .pExit 1).unwritten)) } ∧
      nextIs (exec (.pin .vcc false) (inPhase .pExit 1)) (fun _ => true) = true := by decide +kernel
theorem witness_StepRunsIssuedOperation :
    let s := State.reset.withFetchWord 48 0x804C0064006C
    configOk s.cfg = true ∧ s.pc.phase = .idle ∧ s.host.trigger = false ∧
      s.issue = [.words [⟨0x80, 0x4C⟩, ⟨0x00, 0x64⟩, ⟨0x00, 0x6C⟩]] ∧
      decodePairs s.cfg [⟨0x80, 0x4C⟩, ⟨0x00, 0x64⟩, ⟨0x00, 0x6C⟩] = .ok .erase := by decide
theorem witness_IdleWaitsForTrigger :
    configOk State.reset.cfg = true ∧ State.reset.pc.phase = .idle ∧ State.reset.host.trigger = false ∧
      State.reset.issue = [] := by decide

/-- The state inside P_EXIT, with 12 V still on and VCC off, meets the invariant of a session. -/
def leaving : State :=
  { inPhase .pExit 2 with
    pins := { Lines.powered with vcc := false }
    now := 5
    trace := [⟨3, .level .sci false⟩, ⟨4, .level .vcc false⟩] }

theorem witness_SessionInv : SessionInv leaving := by decide +kernel
theorem witness_EveryStepKeepsSessionInvariant :
    SessionInv leaving ∧ nextIs (step leaving) (fun t => t.pins = Lines.resting) = true := by decide +kernel
theorem witness_ActionIsFixedDuringSession :
    SessionInv leaving ∧ leaving.pc.phase ≠ .idle ∧ nextIs (step leaving) (fun _ => true) = true := by
  decide +kernel
theorem witness_HighVoltageOnlyWithSupply_driving :
    let s : State := { inPhase .pEnter 4 with pins := Lines.resting, sdoDir := .output }
    SessionInv s ∧ s.sdoDir = .output := by decide +kernel

/-- The triggered state with the answers of an unsupported part, and what its session gives. -/
def unsupported : State :=
  hostTrigger (answering (reply 0 ++ reply 0 ++ reply 0 ++ reply 0x12
    ++ reply 0 ++ reply 0 ++ reply 0 ++ reply 0x34))

theorem witness_SequencerRefinesSession :
    configOk unsupported.cfg = true ∧ unsupported.pc.phase = .idle ∧ unsupported.host.trigger = true ∧
      nextIs (exec (.session unsupported.host.action)
        { unsupported with host := { unsupported.host with trigger := false } })
        (fun t => t.outcome.valid) = true := by decide +kernel
theorem witness_WaitSamplesWithinFloorBound :
    let s : State := { answering (List.replicate 9 false) with cfg := pacedConfig 10 3 }
    configOk s.cfg = true ∧ nextIs (exec .waitrdy s) (fun _ => true) = true := by decide +kernel
theorem witness_DirSetsDirection : configOk State.reset.cfg = true ∧ State.reset.sdoDir = .input :=
  witness_configured_listening
theorem witness_DelayWaitsAtLeast : configOk State.reset.cfg = true ∧ State.reset.sdoDir = .input :=
  witness_configured_listening
theorem witness_WaitReadyEndsInBound : configOk State.reset.cfg = true ∧ State.reset.sdoDir = .input :=
  witness_configured_listening
theorem witness_TransferShiftsBothFrames : configOk State.reset.cfg = true ∧ State.reset.sdoDir = .input :=
  witness_configured_listening
theorem witness_EnterKeepsMandatedOrder : configOk State.reset.cfg = true ∧ State.reset.sdoDir = .input :=
  witness_configured_listening
theorem witness_ExitDropsSupplyThenHighVoltage : configOk State.reset.cfg = true ∧ State.reset.sdoDir = .input :=
  witness_configured_listening
theorem witness_SignatureByteRead : configOk State.reset.cfg = true ∧ State.reset.sdoDir = .input :=
  witness_configured_listening
theorem witness_SignatureIsHighThenLow : configOk State.reset.cfg = true ∧ State.reset.sdoDir = .input :=
  witness_configured_listening
theorem witness_FuseReadsReturnThirdByte : configOk State.reset.cfg = true ∧ State.reset.sdoDir = .input :=
  witness_configured_listening
theorem witness_LockReadWaitsOnceMore : configOk State.reset.cfg = true ∧ State.reset.sdoDir = .input :=
  witness_configured_listening
theorem witness_FuseWritesSendValueAndAddress : configOk State.reset.cfg = true ∧ State.reset.sdoDir = .input :=
  witness_configured_listening
theorem witness_EraseSendsThreePairsAndWaits : configOk State.reset.cfg = true ∧ State.reset.sdoDir = .input :=
  witness_configured_listening

/-- The answers of a part with a signature, then of a lock byte and three fuse bytes of 0xFF with every wait ready. -/
def part (hi lo lock : Byte) (fuses : Nat) : State :=
  answering ((List.replicate 3 0 ++ [hi] ++ List.replicate 3 0 ++ [lo]).flatMap reply
    ++ (List.replicate (3 * fuses + 2) 0 ++ [lock]).flatMap reply ++ List.replicate 480 true)

/-- A session's statements about its next state, on the paths of 45_session.md R234 and R235: unsupported part,
ReadOnly, Erase, and WriteDefaults on an unlocked and on a locked part. -/
theorem witness_SessionEndsPublished :
    configOk State.reset.cfg = true ∧ State.reset.pc.phase = .idle := by decide
theorem witness_SessionOutcomeByPath_readOnly :
    configOk (part 0x90 0x07 0xFF 2).cfg = true ∧ (part 0x90 0x07 0xFF 2).pc.phase = .idle ∧
      nextIs (exec (.session (some .readOnly)) (part 0x90 0x07 0xFF 2))
        (fun t => t.ident.desc = some 0 ∧ t.outcome.wrote = false ∧ t.outcome.fuseL1 = none) = true := by
  decide +kernel
theorem witness_SessionOutcomeByPath_erase :
    nextIs (exec (.session (some .erase)) (part 0x90 0x07 0xFF 2))
      (fun t => t.ident.desc = some 0 ∧ t.outcome.erased ∧ t.outcome.lockRaw1 = some 0xFF) = true := by decide +kernel
theorem witness_SessionFramePairCounts_escalated :
    nextIs (exec (.session none) (part 0x93 0x0B 0xFE 3))
      (fun t => t.ident.desc = some 6 ∧ t.outcome.erased ∧ t.outcome.escalated) = true := by decide +kernel
theorem witness_SessionFramePairCounts_unlocked :
    nextIs (exec (.session none) (part 0x93 0x0B 0xFF 3))
      (fun t => t.ident.desc = some 6 ∧ t.outcome.erased = false ∧ t.outcome.wrote) = true := by decide +kernel
theorem witness_EscalatedSessionOfTwoFuses :
    (part 0x90 0x07 0xFE 2).cfg = Config.default ∧ (part 0x90 0x07 0xFE 2).pc.phase = .idle ∧
      nextIs (exec (.session none) (part 0x90 0x07 0xFE 2))
        (fun t => t.outcome.escalated ∧ t.knownRow = some ⟨0x9007, .fam2, 0x6A, 0xFF, none⟩) = true := by
  decide +kernel
theorem witness_SessionsNeverStop : SessionInv leaving := witness_SessionInv
theorem witness_HighVoltageOnlyWithSupply : SessionInv leaving := witness_SessionInv

end Sys2Proof.Tests
end

section
/-! The samples of the trace against the answers of the target (00_scope.md R8, R14). What an operation does to the
script of answers (log 5) and to the trace is a chain of single events, `TargetStep`; that chain is followed through
every operation and every step, and what a chain says of each sample in it is read off once, at the end. -/

namespace Sys2Proof.Machine

/-! ## Chains of events and answers -/

/-- One event added to the trace, beside the script of answers still to come: an event that is no sample leaves the
script alone; a sample at the time `now` carries the script's first answer and uses it up, or carries the oracle's
answer where the script has come to its end (00_scope.md R8, log 5). -/
inductive TargetStep : List Bool × List Event → List Bool × List Event → Prop
  | other {script : List Bool} {tr : List Event} {e : Event} (h : isSampleEvent e = false) :
      TargetStep (script, tr) (script, tr ++ [e])
  | sample {script : List Bool} {tr : List Event} (now : Nat) :
      TargetStep (script, tr) (script.tail, tr ++ [⟨now, .sample (script.headD (Config.sdoOracle tr now))⟩])

/-- From `s` to `t` the trace grows by events whose samples are the target's answers. -/
def Answered (s t : State) : Prop :=
  Relation.ReflTransGen TargetStep (s.env.samples, s.trace) (t.env.samples, t.trace)

/-- What a chain that begins with `script` and the trace `tr` says of the script and the trace it ends with. -/
structure AnsweredFrom (script : List Bool) (tr : List Event) (last : List Bool × List Event) : Prop where
  grows : tr.length ≤ last.2.length
  used : last.1 = script.drop ((last.2.drop tr.length).countP isSampleEvent)
  answers : ∀ (before after : List Event) (e : Event) (b : Bool), last.2 = before ++ e :: after →
    tr.length ≤ before.length → e.kind = .sample b →
    b = (script[(before.drop tr.length).countP isSampleEvent]?).getD (Config.sdoOracle before e.time)

/-- The event `x` at the end of a trace is the event `e`, or `e` stands before it. -/
theorem concat_eq_append_cons {tr before after : List Event} {x e : Event} (h : tr ++ [x] = before ++ e :: after) :
    (before = tr ∧ e = x) ∨ ∃ rest, tr = before ++ e :: rest := by
  rcases List.eq_nil_or_concat after with rfl | ⟨rest, y, rfl⟩
  · obtain ⟨hb, he⟩ := List.append_inj' h rfl
    exact .inl ⟨hb.symm, (List.singleton_inj.1 he).symm⟩
  · rw [List.concat_eq_append, ← List.cons_append, ← List.append_assoc] at h
    exact .inr ⟨rest, (List.append_inj' h rfl).1⟩

/-- The samples of a trace that has grown past `n` events, when one more event is added. -/
theorem countP_drop_concat {tr : List Event} {n : Nat} (h : n ≤ tr.length) (x : Event) :
    ((tr ++ [x]).drop n).countP isSampleEvent
      = (tr.drop n).countP isSampleEvent + if isSampleEvent x then 1 else 0 := by
  rw [List.drop_append_of_le_length h, List.countP_append, List.countP_singleton]

theorem answeredFrom_refl (script : List Bool) (tr : List Event) : AnsweredFrom script tr (script, tr) where
  grows := le_refl _
  used := by simp
  answers := by
    intro before after e b h hle
    have hlen := congrArg List.length h
    simp only [List.length_append, List.length_cons] at hlen
    omega

theorem answeredFrom_step {script : List Bool} {tr : List Event} {p q : List Bool × List Event}
    (h : AnsweredFrom script tr p) (hs : TargetStep p q) : AnsweredFrom script tr q := by
  obtain ⟨hgrows, hused, hanswers⟩ := h
  cases hs with
  | @other left tr' x hx =>
    refine ⟨by simpa using Nat.le_succ_of_le hgrows, by simpa [countP_drop_concat hgrows, hx] using hused, ?_⟩
    intro before after e b heq hle hk
    rcases concat_eq_append_cons heq with ⟨-, rfl⟩ | ⟨rest, hrest⟩
    · simp [isSampleEvent, hk] at hx
    · exact hanswers before rest e b hrest hle hk
  | @sample left tr' now =>
    refine ⟨by simpa using Nat.le_succ_of_le hgrows, ?_, ?_⟩
    · simp only at hused
      simp [countP_drop_concat hgrows, isSampleEvent, hused]
    · intro before after e b heq hle hk
      rcases concat_eq_append_cons heq with ⟨rfl, rfl⟩ | ⟨rest, hrest⟩
      · cases hk
        simp only at hused
        rw [hused, List.headD_eq_head?_getD, List.head?_drop]
      · exact hanswers before rest e b hrest hle hk

theorem answeredFrom_of_chain {script : List Bool} {tr : List Event} {last : List Bool × List Event}
    (h : Relation.ReflTransGen TargetStep (script, tr) last) : AnsweredFrom script tr last := by
  induction h with
  | refl => exact answeredFrom_refl _ _
  | tail _ hs ih => exact answeredFrom_step ih hs

/-! ## The primitives -/

namespace Answered

variable {s t u : State}

theorem refl (s : State) : Answered s s := Relation.ReflTransGen.refl

theorem trans (h1 : Answered s t) (h2 : Answered t u) : Answered s u := Relation.ReflTransGen.trans h1 h2

/-- What leaves the script and the trace alone adds nothing to the chain. -/
theorem same (h : Answered s t) (hs : u.env.samples = t.env.samples) (ht : u.trace = t.trace) : Answered s u := by
  unfold Answered
  rw [hs, ht]
  exact h

theorem pin (h : Answered s t) {r : Role} {b : Bool} : Answered s (pin r b t) :=
  Relation.ReflTransGen.tail h (.other rfl)

theorem setDir (h : Answered s t) {d : Dir} : Answered s (setDir d t) :=
  Relation.ReflTransGen.tail h (.other rfl)

theorem observe (h : Answered s t) : Answered s (observe t) :=
  Relation.ReflTransGen.tail h (.sample t.now)

theorem delay (h : Answered s t) {p : TimeParam} : Answered s (delay p t) := h.same rfl rfl

theorem noteReads (h : Answered s t) {rs : List Reg} : Answered s (noteReads rs t) := h.same rfl rfl

theorem countOpen (h : Answered s t) {m : Bool} : Answered s (countOpen m t) :=
  h.same (by cases m <;> rfl) rfl

theorem put (h : Answered s t) {r : Reg} {v : Val} : Answered s (t.put r v) := h.same (by simp) (by simp)

theorem putAll (h : Answered s t) {ws : List (Reg × Val)} : Answered s (t.putAll ws) := h.same (by simp) (by simp)

/-- A chain followed through a list of like operations. -/
theorem foldl {α : Type} {f : State → α → State} (hf : ∀ (a : α) (t : State), Answered s t → Answered s (f t a))
    (h : Answered s t) {as : List α} : Answered s (as.foldl f t) := by
  induction as generalizing t with
  | nil => exact h
  | cons a as ih => exact ih (hf a t h)

/-! ## The link -/

theorem sampleIn (h : Answered s t) : Answered s (sampleIn t) := h.observe.put

theorem pollOnce (h : Answered s t) : Answered s (pollOnce t) := by
  cases hl : t.sdoLevel
  · cases hd : deadlinePassed t
    · rw [pollOnce_goesOn (by simp [pollEnds, hl, hd])]
      exact h.observe.countOpen.delay
    · rw [pollOnce_deadline hl hd]
      exact h.observe.countOpen.put
  · rw [pollOnce_high hl]
    exact h.observe.put

theorem pollLoop (h : Answered s t) (n : Nat) : Answered s (pollLoop n t) := by
  induction n generalizing t with
  | zero => exact h
  | succ n ih =>
    unfold Machine.pollLoop
    split
    · exact h.pollOnce
    · exact ih h.pollOnce

theorem waitReady (h : Answered s t) : Answered s (waitReady t) := h.put.pollLoop _

theorem shiftBit (h : Answered s t) {j : BitIdx} : Answered s (shiftBit j t) := h.put.pin.pin.sampleIn.pin.pin

theorem transfer (h : Answered s t) {d i : Byte} : Answered s (transfer d i t) :=
  have composed : Answered s (composeFrames d i t) := h.put.put.put
  have shifted : Answered s (shiftFrames (Machine.waitReady (composeFrames d i t))) :=
    composed.waitReady.foldl fun _ _ h => h.shiftBit
  shifted.put

theorem transferAll (h : Answered s t) {ps : List FramePair} : Answered s (transferAll ps t) :=
  h.foldl fun _ _ h => h.transfer

/-! ## The identifier, the fuses, the eraser and the power -/

theorem readSignature (h : Answered s t) : Answered s (readSignature t) :=
  h.put.foldl fun _ _ h => h.transferAll.put

theorem readFuse (h : Answered s t) {x : FuseSel} : Answered s (readFuse x t) := h.transferAll

theorem readLock (h : Answered s t) : Answered s (readLock t) := h.transferAll.waitReady

theorem writeFuse (h : Answered s t) {x : FuseSel} {v : Byte} : Answered s (writeFuse x v t) := h.transferAll

theorem eraseChip (h : Answered s t) : Answered s (eraseChip t) := h.transferAll.waitReady

theorem enterMode (h : Answered s t) : Answered s (enterMode t) :=
  h.pin.pin.pin.setDir.pin.pin.delay.pin.delay.setDir.delay

theorem exitMode (h : Answered s t) : Answered s (exitMode t) := h.pin.pin.pin

/-! ## The session -/

theorem startSession (h : Answered s t) {a : Option Action} : Answered s (startSession a t) := h.putAll.putAll.putAll

theorem identPhase (h : Answered s t) : Answered s (identPhase t) := h.readSignature.put.putAll

theorem recordByte (h : Answered s t) {r : Reg} : Answered s (recordByte r t) := h.put

theorem readFuses (h : Answered s t) {d : Descriptor} {l hi e : Reg} : Answered s (readFuses d l hi e t) := by
  have both : Answered s
      (Machine.recordByte hi (Machine.readFuse .high (Machine.recordByte l (Machine.readFuse .low t)))) :=
    h.readFuse.recordByte.readFuse.recordByte
  unfold Machine.readFuses
  dsimp only
  split
  · exact both.readFuse.recordByte
  · exact both

theorem readPhase (h : Answered s t) {d : Descriptor} : Answered s (readPhase d t) := h.readFuses.readLock.putAll

theorem erasePhase (h : Answered s t) : Answered s (erasePhase t) := h.eraseChip.putAll

theorem writePhase (h : Answered s t) {d : Descriptor} : Answered s (writePhase d t) := by
  unfold Machine.writePhase
  dsimp only
  split
  · exact h.writeFuse.writeFuse.putAll
  · exact h.writeFuse.writeFuse.writeFuse.putAll

theorem verifyPhase (h : Answered s t) {d : Descriptor} : Answered s (verifyPhase d t) := by
  unfold Machine.verifyPhase
  dsimp only
  split
  · exact h.readFuses.readLock.putAll
  · exact h.readFuses

theorem exitPhase (h : Answered s t) : Answered s (exitPhase t) := h.exitMode.put.same rfl rfl

theorem actPhases (h : Answered s t) {d : Descriptor} : Answered s (actPhases d t) := by
  unfold Machine.actPhases
  dsimp only
  split
  · exact h
  split
  · split
    · exact h.erasePhase.writePhase.verifyPhase
    · exact h.erasePhase.verifyPhase
  · exact h.writePhase.verifyPhase

theorem runSession (h : Answered s t) {a : Option Action} : Answered s (runSession a t) := by
  have ident := (h.startSession (a := a)).enterMode.identPhase
  unfold Machine.runSession
  dsimp only
  split
  · exact ident.exitPhase
  · exact ident.readPhase.actPhases.exitPhase

/-! ## The sequencer -/

theorem dropTrigger (h : Answered s t) : Answered s (dropTrigger t) := h.same rfl rfl

theorem advance (h : Answered s t) {done : Bool} : Answered s (advance done t) := h.same rfl rfl

theorem leavePhase (h : Answered s t) {p : Phase} : Answered s (leavePhase p t) := h.same rfl rfl

theorem idlePoll (h : Answered s t) : Answered s (idlePoll t) := h.same rfl rfl

theorem beginSession (h : Answered s t) : Answered s (beginSession t) :=
  have started : Answered s (Machine.startSession t.host.action t) := h.startSession
  started.same rfl rfl

/-- The harness's list of issued operations is no part of the chain (log 10). -/
theorem setIssue (h : Answered s t) {ws : List Issue} : Answered s { t with issue := ws } := h.same rfl rfl

end Answered

/-! ## Every operation and every step -/

/-- An operation that takes no sample, behind its guard. -/
theorem answered_of_configured {s t u : State} (h : whenConfigured s (.next u) = .next t) (hu : Answered s u) :
    Answered s t := by
  obtain ⟨-, hn⟩ := whenConfigured_next h
  cases hn
  exact hu

/-- An operation that takes samples, behind its two guards. -/
theorem answered_of_sampling {s t u : State} (h : whenConfigured s (whenSampling s (.next u)) = .next t)
    (hu : Answered s u) : Answered s t := by
  obtain ⟨-, hn⟩ := whenSampling_next (whenConfigured_next h).2
  cases hn
  exact hu

theorem answered_of_execSession {a : Option Action} {s t : State} (h : execSession a s = .next t) : Answered s t := by
  obtain ⟨-, hn⟩ := whenConfigured_next h
  split at hn
  · cases hn
    exact (Answered.refl s).runSession
  · cases hn
    exact .refl s

theorem answered_of_execClassify {sig : Option Signature} {s t : State} (h : execClassify sig s = .next t) :
    Answered s t := by
  cases sig with
  | none => exact answered_of_configured h (Answered.refl s).noteReads.put
  | some v => exact answered_of_configured h (Answered.refl s).put

/-- Every operation adds to the trace only samples that are the target's answers. -/
theorem answered_of_exec {i : Instr} {s t : State} (h : exec i s = .next t) : Answered s t := by
  have start := Answered.refl s
  cases i with
  | xfer d b => exact answered_of_sampling h start.transfer
  | waitrdy => exact answered_of_sampling h start.waitReady
  | pin r b => exact answered_of_configured h start.pin
  | dir d => exact answered_of_configured h start.setDir
  | delay p => exact answered_of_configured h start.delay
  | sample => exact answered_of_sampling h start.noteReads.sampleIn
  | poll => exact answered_of_sampling h start.noteReads.pollOnce
  | set as => exact answered_of_configured h start.noteReads.putAll.countOpen
  | enter => exact answered_of_configured h start.enterMode
  | exit => exact answered_of_configured h start.exitMode
  | rdsb idx => exact answered_of_sampling h start.transferAll
  | rdsig => exact answered_of_sampling h start.readSignature
  | classify sig => exact answered_of_execClassify h
  | rdfL => exact answered_of_sampling h start.readFuse
  | rdfH => exact answered_of_sampling h start.readFuse
  | rdfE => exact answered_of_sampling h start.readFuse
  | rdlk => exact answered_of_sampling h start.readLock
  | wrfL v => exact answered_of_sampling h start.writeFuse
  | wrfH v => exact answered_of_sampling h start.writeFuse
  | wrfE v => exact answered_of_sampling h start.writeFuse
  | erase => exact answered_of_sampling h start.eraseChip
  | session a => exact answered_of_execSession h

theorem answered_of_stepPhase {p : Phase} {s t : State} (h : stepPhase p s = .next t) : Answered s t := by
  have start := Answered.refl s
  rcases stepPhase_next h with ⟨i, u, -, hu, rfl⟩ | ⟨-, rfl⟩
  · exact (start.noteReads.trans (answered_of_exec hu)).advance
  · exact start.noteReads.leavePhase

theorem answered_of_stepIdle {triggered : Bool} {s t : State} (h : stepIdle triggered s = .next t) :
    Answered s t := by
  have start := Answered.refl s
  rcases stepIdle_next h with ⟨-, rfl⟩ | ⟨-, -, rfl⟩ | ⟨-, w, rest, i, -, -, hi⟩
  · exact start.beginSession
  · exact start.idlePoll
  · exact start.setIssue.trans (answered_of_exec hi)

/-- Every step adds to the trace only samples that are the target's answers. -/
theorem answered_of_step {s t : State} (h : step s = .next t) : Answered s t := by
  have dropped := (Answered.refl s).dropTrigger
  obtain ⟨-, ⟨-, hi⟩ | ⟨-, hp⟩⟩ := step_next h
  · exact dropped.trans (answered_of_stepIdle hi)
  · exact dropped.trans (answered_of_stepPhase hp)

/-- Settles O17: the chain of events and answers of an operation or a step, read off at one of its samples. -/
theorem samplesAreTheTargetsAnswers : Obligations.SamplesAreTheTargetsAnswers := by
  intro s t h
  have hst : Answered s t := h.elim (fun ⟨_, hi⟩ => answered_of_exec hi) answered_of_step
  exact (answeredFrom_of_chain hst).answers

end Sys2Proof.Machine
end

section
/-! Two runs in lockstep (10_state.md R28, R44; 00_scope.md R14). Every operation is made of primitives. Two states that
differ at most in the outcome of the last wait run the same primitives in the same order, and still differ at most in
that; this is followed once through every operation. That `wres` is hidden is read off the pair of runs, and what every
primitive keeps (the configuration, the order of time, the trace) off either one of them. -/

namespace Sys2Proof.Machine

/-! ## The primitives -/

/-- The state with another outcome of the last wait (10_state.md R28). -/
def withWres (w : WaitResult) (s : State) : State := { s with wait := { s.wait with wres := w } }

/-- What operations and steps are made of (00_scope.md R14), the writes of the pc and of the interface included. -/
inductive Primitive where
  | pin (r : Role) (b : Bool)
  | setDir (d : Dir)
  | elapse (d : Nat)
  | observe
  | put (r : Reg) (v : Val)
  | noteReads (rs : List Reg)
  | countOpen (met : Bool)
  | jump (pc : Pc)
  | setHost (h : HostPort)
  | setIssue (ws : List Issue)

/-- What a primitive does. -/
def Primitive.run : Primitive → State → State
  | .pin r b, s => Machine.pin r b s
  | .setDir d, s => Machine.setDir d s
  | .elapse d, s => Machine.elapse d s
  | .observe, s => Machine.observe s
  | .put r v, s => s.put r v
  | .noteReads rs, s => Machine.noteReads rs s
  | .countOpen met, s => Machine.countOpen met s
  | .jump pc, s => { s with pc := pc }
  | .setHost h, s => { s with host := h }
  | .setIssue ws, s => { s with issue := ws }

/-- No register write reads `wres`. -/
theorem put_withWres (w : WaitResult) (s : State) (r : Reg) (v : Val) :
    ∃ w', (withWres w s).put r v = withWres w' (s.put r v) := by
  cases r
  case wres => exact ⟨v.toWaitResult, rfl⟩
  all_goals exact ⟨w, rfl⟩

/-- No primitive reads `wres`. -/
theorem Primitive.run_withWres (p : Primitive) (w : WaitResult) (s : State) :
    ∃ w', p.run (withWres w s) = withWres w' (p.run s) := by
  cases p with
  | put r v => exact put_withWres w s r v
  | _ => exact ⟨w, rfl⟩

/-- From `s`, and from `s` with another outcome `w` of the last wait, the same primitives lead to these two states. -/
inductive Lockstep (s : State) (w : WaitResult) : State → State → Prop
  | refl : Lockstep s w s (withWres w s)
  | tail {t u : State} (h : Lockstep s w t u) (p : Primitive) : Lockstep s w (p.run t) (p.run u)

namespace Lockstep

variable {s t u : State} {w : WaitResult}

/-- Two runs in lockstep differ at most in the outcome of the last wait. -/
theorem agree (h : Lockstep s w t u) : ∃ v, u = withWres v t := by
  induction h with
  | refl => exact ⟨w, rfl⟩
  | tail _ p ih =>
    obtain ⟨v, rfl⟩ := ih
    exact p.run_withWres v _

theorem cfg (h : Lockstep s w t u) : u.cfg = t.cfg := by
  obtain ⟨v, rfl⟩ := h.agree
  rfl

theorem link (h : Lockstep s w t u) : u.link = t.link := by
  obtain ⟨v, rfl⟩ := h.agree
  rfl

theorem ident (h : Lockstep s w t u) : u.ident = t.ident := by
  obtain ⟨v, rfl⟩ := h.agree
  rfl

theorem sess (h : Lockstep s w t u) : u.sess = t.sess := by
  obtain ⟨v, rfl⟩ := h.agree
  rfl

theorem row (h : Lockstep s w t u) : u.row = t.row := by
  obtain ⟨v, rfl⟩ := h.agree
  rfl

theorem pin (h : Lockstep s w t u) {r : Role} {b : Bool} : Lockstep s w (pin r b t) (pin r b u) := h.tail (.pin r b)

theorem setDir (h : Lockstep s w t u) {d : Dir} : Lockstep s w (setDir d t) (setDir d u) := h.tail (.setDir d)

theorem observe (h : Lockstep s w t u) : Lockstep s w (observe t) (observe u) := h.tail .observe

theorem put (h : Lockstep s w t u) {r : Reg} {v : Val} : Lockstep s w (t.put r v) (u.put r v) := h.tail (.put r v)

theorem noteReads (h : Lockstep s w t u) {rs : List Reg} : Lockstep s w (noteReads rs t) (noteReads rs u) :=
  h.tail (.noteReads rs)

theorem countOpen (h : Lockstep s w t u) {m : Bool} : Lockstep s w (countOpen m t) (countOpen m u) :=
  h.tail (.countOpen m)

theorem delay (h : Lockstep s w t u) {p : TimeParam} : Lockstep s w (delay p t) (delay p u) := by
  obtain ⟨v, rfl⟩ := h.agree
  exact h.tail (.elapse (timingOf t.cfg.timing p))

/-- Like operations on the members of a list stay in lockstep. -/
theorem foldl {α : Type} (f : State → α → State)
    (hf : ∀ (a : α) (t u : State), Lockstep s w t u → Lockstep s w (f t a) (f u a))
    (h : Lockstep s w t u) (as : List α) : Lockstep s w (as.foldl f t) (as.foldl f u) := by
  induction as generalizing t u with
  | nil => exact h
  | cons a as ih => exact ih (hf a t u h)

theorem putAll (h : Lockstep s w t u) {ws : List (Reg × Val)} : Lockstep s w (t.putAll ws) (u.putAll ws) :=
  h.foldl (fun t (x : Reg × Val) => t.put x.1 x.2) (fun _ _ _ h => h.put) ws

/-- Two runs that make the same test take the same branch. -/
theorem ite {c c' : Prop} [Decidable c] [Decidable c'] {t' u' : State} (hc : c' ↔ c) (h : Lockstep s w t u)
    (h' : Lockstep s w t' u') : Lockstep s w (if c then t else t') (if c' then u else u') := by
  by_cases ht : c
  · rwa [if_pos ht, if_pos (hc.2 ht)]
  · rwa [if_neg ht, if_neg (mt hc.1 ht)]

/-! ## The link -/

theorem sampleIn (h : Lockstep s w t u) : Lockstep s w (sampleIn t) (sampleIn u) := by
  obtain ⟨v, rfl⟩ := h.agree
  exact h.observe.put

theorem pollOnce (h : Lockstep s w t u) : Lockstep s w (pollOnce t) (pollOnce u) := by
  obtain ⟨v, rfl⟩ := h.agree
  cases hl : t.sdoLevel
  · cases hd : deadlinePassed t
    · have he : pollEnds t = false := by simp [pollEnds, hl, hd]
      rw [pollOnce_goesOn he, pollOnce_goesOn (s := withWres v t) he]
      exact h.observe.countOpen.delay
    · rw [pollOnce_deadline hl hd, pollOnce_deadline (s := withWres v t) hl hd]
      exact h.observe.countOpen.put
  · rw [pollOnce_high hl, pollOnce_high (s := withWres v t) hl]
    exact h.observe.put

theorem pollLoop (h : Lockstep s w t u) (n : Nat) : Lockstep s w (pollLoop n t) (pollLoop n u) := by
  induction n generalizing t u with
  | zero => exact h
  | succ n ih =>
    have ho := h.pollOnce
    obtain ⟨v, rfl⟩ := h.agree
    cases he : pollEnds t
    · rw [Machine.pollLoop, Machine.pollLoop, he, show pollEnds (withWres v t) = false from he]
      exact ih ho
    · rw [Machine.pollLoop, Machine.pollLoop, he, show pollEnds (withWres v t) = true from he]
      exact ho

theorem waitReady (h : Lockstep s w t u) : Lockstep s w (waitReady t) (waitReady u) := by
  obtain ⟨v, rfl⟩ := h.agree
  exact h.put.pollLoop _

theorem shiftBit (h : Lockstep s w t u) {j : BitIdx} : Lockstep s w (shiftBit j t) (shiftBit j u) := by
  obtain ⟨v, rfl⟩ := h.agree
  exact h.put.pin.pin.sampleIn.pin.pin

theorem composeFrames (h : Lockstep s w t u) {d i : Byte} :
    Lockstep s w (composeFrames d i t) (composeFrames d i u) := by
  obtain ⟨v, rfl⟩ := h.agree
  exact h.put.put.put

theorem shiftFrames (h : Lockstep s w t u) : Lockstep s w (shiftFrames t) (shiftFrames u) := by
  rw [Machine.shiftFrames, Machine.shiftFrames, h.cfg]
  exact h.foldl (fun t j => Machine.shiftBit j t) (fun _ _ _ h => h.shiftBit) _

theorem latchResult (h : Lockstep s w t u) : Lockstep s w (latchResult t) (latchResult u) := by
  obtain ⟨v, rfl⟩ := h.agree
  exact h.put

theorem transfer (h : Lockstep s w t u) {d i : Byte} : Lockstep s w (transfer d i t) (transfer d i u) :=
  h.composeFrames.waitReady.shiftFrames.latchResult

theorem transferAll (h : Lockstep s w t u) {ps : List FramePair} :
    Lockstep s w (transferAll ps t) (transferAll ps u) :=
  h.foldl (fun t (p : FramePair) => Machine.transfer p.sdi p.sii t) (fun _ _ _ h => h.transfer) ps

/-! ## The identifier, the fuses, the eraser and the power -/

theorem readSigByte (h : Lockstep s w t u) {idx : Byte} : Lockstep s w (readSigByte idx t) (readSigByte idx u) := by
  obtain ⟨v, rfl⟩ := h.agree
  exact h.transferAll

theorem accumulateSig (h : Lockstep s w t u) : Lockstep s w (accumulateSig t) (accumulateSig u) := by
  obtain ⟨v, rfl⟩ := h.agree
  exact h.put

theorem readSignature (h : Lockstep s w t u) : Lockstep s w (readSignature t) (readSignature u) := by
  rw [Machine.readSignature, Machine.readSignature, h.cfg]
  exact h.put.foldl (fun t idx => Machine.accumulateSig (Machine.readSigByte idx t))
    (fun _ _ _ h => h.readSigByte.accumulateSig) _

theorem classify (h : Lockstep s w t u) {sig : Signature} : Lockstep s w (classify sig t) (classify sig u) := by
  obtain ⟨v, rfl⟩ := h.agree
  exact h.put

theorem readFuse (h : Lockstep s w t u) {x : FuseSel} : Lockstep s w (readFuse x t) (readFuse x u) := by
  obtain ⟨v, rfl⟩ := h.agree
  exact h.transferAll

theorem readLock (h : Lockstep s w t u) : Lockstep s w (readLock t) (readLock u) := by
  obtain ⟨v, rfl⟩ := h.agree
  exact h.transferAll.waitReady

theorem writeFuse (h : Lockstep s w t u) {x : FuseSel} {b : Byte} :
    Lockstep s w (writeFuse x b t) (writeFuse x b u) := by
  obtain ⟨v, rfl⟩ := h.agree
  exact h.transferAll

theorem eraseChip (h : Lockstep s w t u) : Lockstep s w (eraseChip t) (eraseChip u) := by
  obtain ⟨v, rfl⟩ := h.agree
  exact h.transferAll.waitReady

theorem enterMode (h : Lockstep s w t u) : Lockstep s w (enterMode t) (enterMode u) :=
  h.pin.pin.pin.setDir.pin.pin.delay.pin.delay.setDir.delay

theorem exitMode (h : Lockstep s w t u) : Lockstep s w (exitMode t) (exitMode u) := h.pin.pin.pin

/-! ## The session -/

theorem startSession (h : Lockstep s w t u) {a : Option Action} :
    Lockstep s w (startSession a t) (startSession a u) :=
  h.putAll.putAll.putAll

theorem recordByte (h : Lockstep s w t u) {r : Reg} : Lockstep s w (recordByte r t) (recordByte r u) := by
  obtain ⟨v, rfl⟩ := h.agree
  exact h.put

theorem identPhase (h : Lockstep s w t u) : Lockstep s w (identPhase t) (identPhase u) := by
  have read := h.readSignature
  unfold Machine.identPhase
  dsimp only
  rw [read.ident]
  have classified := read.classify (sig := (Machine.readSignature t).ident.sig)
  rw [classified.ident]
  exact classified.putAll

theorem readFuses (h : Lockstep s w t u) {d : Descriptor} {l hi e : Reg} :
    Lockstep s w (readFuses d l hi e t) (readFuses d l hi e u) := by
  have both := (((h.readFuse (x := .low)).recordByte (r := l)).readFuse (x := .high)).recordByte (r := hi)
  unfold Machine.readFuses
  dsimp only
  split
  · exact both.readFuse.recordByte
  · exact both

theorem readPhase (h : Lockstep s w t u) {d : Descriptor} : Lockstep s w (readPhase d t) (readPhase d u) := by
  have read := (h.readFuses (d := d) (l := .oFuseL0) (hi := .oFuseH0) (e := .oFuseE0)).readLock
  unfold Machine.readPhase
  dsimp only
  rw [read.link]
  exact read.putAll

theorem erasePhase (h : Lockstep s w t u) : Lockstep s w (erasePhase t) (erasePhase u) := by
  unfold Machine.erasePhase
  dsimp only
  rw [h.eraseChip.sess]
  exact h.eraseChip.putAll

theorem writePhase (h : Lockstep s w t u) {d : Descriptor} : Lockstep s w (writePhase d t) (writePhase d u) := by
  unfold Machine.writePhase
  dsimp only
  split
  · exact h.writeFuse.writeFuse.putAll
  · exact h.writeFuse.writeFuse.writeFuse.putAll

theorem verifyPhase (h : Lockstep s w t u) {d : Descriptor} : Lockstep s w (verifyPhase d t) (verifyPhase d u) := by
  have read := h.readFuses (d := d) (l := .oFuseL1) (hi := .oFuseH1) (e := .oFuseE1)
  unfold Machine.verifyPhase
  dsimp only
  rw [read.readLock.link]
  exact ite (by rw [read.sess]) read.readLock.putAll read

theorem exitPhase (h : Lockstep s w t u) : Lockstep s w (exitPhase t) (exitPhase u) :=
  h.exitMode.put.tail (.jump { phase := .idle, upc := 0 })

theorem actPhases (h : Lockstep s w t u) {d : Descriptor} : Lockstep s w (actPhases d t) (actPhases d u) := by
  have written := h.writePhase (d := d)
  have erased := h.erasePhase
  have both := erased.writePhase (d := d)
  unfold Machine.actPhases
  dsimp only
  refine ite (by rw [h.sess]) h (ite (by rw [h.sess]) (ite (by rw [erased.sess]) ?_ ?_) ?_)
  · exact both.verifyPhase
  · exact erased.verifyPhase
  · exact written.verifyPhase

/-- What follows the start of a session. -/
theorem runSession_of_started {a : Option Action}
    (h : Lockstep s w (Machine.startSession a t) (Machine.startSession a u)) :
    Lockstep s w (runSession a t) (runSession a u) := by
  have ident := h.enterMode.identPhase
  unfold runSession
  dsimp only
  rw [ident.row]
  exact ite (by rw [ident.ident]) ident.exitPhase ident.readPhase.actPhases.exitPhase

theorem runSession (h : Lockstep s w t u) {a : Option Action} : Lockstep s w (runSession a t) (runSession a u) :=
  runSession_of_started h.startSession

end Lockstep
end Sys2Proof.Machine
end

section
/-! The hidden outcome of the last wait (10_state.md R28, R44; 40_link.md R116): no operation but a SET whose
expressions name it depends on it. -/

namespace Sys2Proof.Machine

/-! ## What a SET reads -/

/-- Every register but `wres` holds the same whatever `wres` is. -/
theorem readReg_withWres {w : WaitResult} {s : State} {r : Reg} (h : r ≠ .wres) :
    (withWres w s).readReg r = s.readReg r := by
  cases r
  case wres => exact absurd rfl h
  all_goals rfl

theorem atomValue_withWres {w : WaitResult} {s : State} {a : Atom} (h : Reg.wres ∉ atomReads a) :
    atomValue (withWres w s) a = atomValue s a := by
  cases a
  case reg r =>
    have hr : r ≠ .wres := fun e => h (List.mem_singleton.2 e.symm)
    exact congrArg some (readReg_withWres hr)
  case timing t => cases t <;> rfl
  all_goals rfl

/-- The value of an expression that does not name `wres`. -/
theorem evalExpr_withWres {w : WaitResult} {s : State} {e : Expr} (place : List Nat) (h : Reg.wres ∉ exprReads e) :
    evalExpr (withWres w s) e place = evalExpr s e place := by
  induction e generalizing place with
  | atom a => simp only [evalExpr, atomValue_withWres h]; rfl
  | un op e ih => simp only [evalExpr, ih _ h]; rfl
  | bin op a b iha ihb =>
    simp only [exprReads, List.mem_append, not_or] at h
    obtain ⟨ha, hb⟩ := h
    simp only [evalExpr, iha _ ha, ihb _ hb]
    rfl
  | ite c a b ihc iha ihb =>
    simp only [exprReads, List.mem_append, not_or] at h
    obtain ⟨⟨hc, ha⟩, hb⟩ := h
    simp only [evalExpr, ihc _ hc, iha _ ha, ihb _ hb]
    rfl

/-- Whether an expression that does not name `wres` meets an unstated value. -/
theorem exprOpen_withWres {w : WaitResult} {s : State} {e : Expr} (place : List Nat) (h : Reg.wres ∉ exprReads e) :
    exprOpen (withWres w s) e place = exprOpen s e place := by
  induction e generalizing place with
  | atom a => simp only [exprOpen, atomValue_withWres h]
  | un op e ih => simp only [exprOpen, ih _ h, evalExpr_withWres (e := e) _ h]; rfl
  | bin op a b iha ihb =>
    simp only [exprReads, List.mem_append, not_or] at h
    obtain ⟨ha, hb⟩ := h
    simp only [exprOpen, iha _ ha, ihb _ hb, evalExpr_withWres _ ha, evalExpr_withWres _ hb]
  | ite c a b ihc iha ihb =>
    simp only [exprReads, List.mem_append, not_or] at h
    obtain ⟨⟨hc, ha⟩, hb⟩ := h
    simp only [exprOpen, ihc _ hc, iha _ ha, ihb _ hb, evalExpr_withWres _ hc]

/-- No assignment of a SET that does not read `wres` reads it. -/
theorem wres_not_read {as : List Assign} (h : Reg.wres ∉ setReads as) {x : Assign × Nat} (hx : x ∈ as.zipIdx) :
    Reg.wres ∉ exprReads x.1.expr := fun hr =>
  h (List.mem_flatMap.2 ⟨x.1, List.fst_mem_of_mem_zipIdx hx, hr⟩)

theorem setWrites_withWres {w : WaitResult} {s : State} {as : List Assign} (h : Reg.wres ∉ setReads as) :
    setWrites (withWres w s) as = setWrites s as := by
  refine List.map_congr_left fun x hx => ?_
  simp only [writtenValue, assignedValue, evalExpr_withWres _ (wres_not_read h hx)]
  rfl

theorem setOpen_withWres {w : WaitResult} {s : State} {as : List Assign} (h : Reg.wres ∉ setReads as) :
    setOpen (withWres w s) as = setOpen s as := by
  rw [setOpen, setOpen, Bool.eq_iff_iff, List.any_eq_true, List.any_eq_true]
  refine exists_congr fun x => and_congr_right fun hx => ?_
  simp only [assignedValue, evalExpr_withWres _ (wres_not_read h hx), exprOpen_withWres _ (wres_not_read h hx)]
  rfl

/-! ## Operations in lockstep -/

/-- Two answers in lockstep: next states in lockstep, or the same fault or refusal. -/
inductive AnswersAlike (s : State) (w : WaitResult) : Result → Result → Prop
  | next {t u : State} (h : Lockstep s w t u) : AnswersAlike s w (.next t) (.next u)
  | fault (r : Fault) : AnswersAlike s w (.fault r) (.fault r)
  | refused (r : Refusal) : AnswersAlike s w (.refused r) (.refused r)

variable {s t u : State} {w : WaitResult}

/-- An operation behind the guard on the configuration. -/
theorem AnswersAlike.configured {a b : Result} (h : AnswersAlike s w a b) :
    AnswersAlike s w (whenConfigured s a) (whenConfigured (withWres w s) b) := by
  cases hc : configOk s.cfg
  · rw [whenConfigured_bad hc, whenConfigured_bad (s := withWres w s) hc]
    exact .refused _
  · rwa [whenConfigured_ok hc, whenConfigured_ok (s := withWres w s) hc]

/-- An operation that takes samples, behind both guards. -/
theorem AnswersAlike.sampling (h : Lockstep s w t u) :
    AnswersAlike s w (whenConfigured s (whenSampling s (.next t)))
      (whenConfigured (withWres w s) (whenSampling (withWres w s) (.next u))) := by
  refine AnswersAlike.configured ?_
  cases hd : s.sdoDir
  · rw [whenSampling_input hd, whenSampling_input (s := withWres w s) hd]
    exact .next h
  · rw [whenSampling_output hd, whenSampling_output (s := withWres w s) hd]
    exact .fault _

theorem execSession_alike (a : Option Action) (s : State) (w : WaitResult) :
    AnswersAlike s w (execSession a s) (execSession a (withWres w s)) := by
  refine AnswersAlike.configured ?_
  by_cases hp : s.pc.phase = .idle
  · rw [if_pos hp, if_pos (show (withWres w s).pc.phase = .idle from hp)]
    exact .next Lockstep.refl.runSession
  · rw [if_neg hp, if_neg (show ¬ (withWres w s).pc.phase = .idle from hp)]
    exact .next .refl

theorem execClassify_alike (sig : Option Signature) (s : State) (w : WaitResult) :
    AnswersAlike s w (execClassify sig s) (execClassify sig (withWres w s)) := by
  refine AnswersAlike.configured ?_
  cases sig with
  | none => exact .next Lockstep.refl.noteReads.classify
  | some v => exact .next Lockstep.refl.classify

theorem execSet_alike {as : List Assign} (hw : setWrites (withWres w s) as = setWrites s as)
    (ho : setOpen (withWres w s) as = setOpen s as) :
    AnswersAlike s w (execSet as s) (execSet as (withWres w s)) := by
  refine AnswersAlike.configured ?_
  rw [hw, ho]
  exact .next Lockstep.refl.noteReads.putAll.countOpen

/-- Every operation runs in lockstep with itself, a SET where the values it writes do not depend on `wres`. -/
theorem exec_alike {i : Instr} (hset : ∀ as, i = .set as →
      setWrites (withWres w s) as = setWrites s as ∧ setOpen (withWres w s) as = setOpen s as) :
    AnswersAlike s w (exec i s) (exec i (withWres w s)) := by
  have start : Lockstep s w s (withWres w s) := .refl
  cases i with
  | xfer d b => exact .sampling start.transfer
  | waitrdy => exact .sampling start.waitReady
  | pin r b => exact .configured (.next start.pin)
  | dir d => exact .configured (.next start.setDir)
  | delay p => exact .configured (.next start.delay)
  | sample => exact .sampling start.noteReads.sampleIn
  | poll => exact .sampling start.noteReads.pollOnce
  | set as => exact execSet_alike (hset as rfl).1 (hset as rfl).2
  | enter => exact .configured (.next start.enterMode)
  | exit => exact .configured (.next start.exitMode)
  | rdsb idx => exact .sampling start.readSigByte
  | rdsig => exact .sampling start.readSignature
  | classify sig => exact execClassify_alike sig s w
  | rdfL => exact .sampling start.readFuse
  | rdfH => exact .sampling start.readFuse
  | rdfE => exact .sampling start.readFuse
  | rdlk => exact .sampling start.readLock
  | wrfL v => exact .sampling start.writeFuse
  | wrfH v => exact .sampling start.writeFuse
  | wrfE v => exact .sampling start.writeFuse
  | erase => exact .sampling start.eraseChip
  | session a => exact execSession_alike a s w

/-- Answers in lockstep are the same when `wres` is hidden. -/
theorem AnswersAlike.hidden {a b : Result} (h : AnswersAlike s w a b) : mapNext hideWres b = mapNext hideWres a := by
  cases h with
  | next h =>
    obtain ⟨v, rfl⟩ := h.agree
    rfl
  | fault r => rfl
  | refused r => rfl

/-- Settles O41: the two runs are in lockstep. -/
theorem waitOutcomeIsHidden : Obligations.WaitOutcomeIsHidden := by
  intro i s w h
  have alike : AnswersAlike s w (exec i s) (exec i (withWres w s)) :=
    exec_alike fun as hi => ⟨setWrites_withWres (h as hi), setOpen_withWres (h as hi)⟩
  exact alike.hidden

end Sys2Proof.Machine
end

section
/-! What a whole run keeps (10_state.md R38 to R40, R42; 70_reset_and_hazards.md R292): every operation and every step
is a run of primitives, so what each primitive keeps, all of them keep. -/

namespace Sys2Proof.Machine

/-! ## Runs of primitives -/

/-- Some primitives lead from one state to another. -/
abbrev Run : State → State → Prop := Relation.ReflTransGen fun s t => ∃ p : Primitive, t = p.run s

variable {s t u : State}

/-- A run is in lockstep with itself. -/
theorem Lockstep.self (s : State) : Lockstep s s.wait.wres s s := .refl

/-- Either one of two runs in lockstep is a run. -/
theorem Lockstep.run {w : WaitResult} (h : Lockstep s w t u) : Run s t := by
  induction h with
  | refl => exact .refl
  | tail _ p ih => exact ih.tail ⟨p, rfl⟩

/-- A single primitive is a run. -/
theorem Primitive.isRun (p : Primitive) (s : State) : Run s (p.run s) := .single ⟨p, rfl⟩

/-- Every operation is a run of primitives: it runs in lockstep with itself. -/
theorem run_of_exec {i : Instr} (h : exec i s = .next t) : Run s t := by
  have alike : AnswersAlike s s.wait.wres (exec i s) (exec i s) := exec_alike fun _ _ => ⟨rfl, rfl⟩
  rw [h] at alike
  cases alike with
  | next h => exact h.run

/-- What follows the start of a session is a run of its own. -/
theorem run_after_startSession (a : Option Action) (s : State) : Run (startSession a s) (runSession a s) :=
  (Lockstep.runSession_of_started (t := s) (u := s) (Lockstep.self (startSession a s))).run

/-- A step inside a session is a run: the operation the pc names, or the exit transition of the phase. -/
theorem run_of_stepPhase {p : Phase} (h : stepPhase p s = .next t) : Run s t := by
  rcases stepPhase_next h with ⟨i, u, -, hu, rfl⟩ | ⟨-, rfl⟩
  · have before := (Primitive.noteReads (phaseReads p)).isRun s
    exact (before.trans (run_of_exec hu)).trans ((Primitive.jump _).isRun u)
  · have before := (Primitive.noteReads (phaseReads p ++ exitReads p)).isRun s
    exact before.trans ((Primitive.jump _).isRun _)

/-- A step in IDLE is a run: the start of a session, time that passes, or an issued operation. -/
theorem run_of_stepIdle {triggered : Bool} (h : stepIdle triggered s = .next t) : Run s t := by
  rcases stepIdle_next h with ⟨-, rfl⟩ | ⟨-, -, rfl⟩ | ⟨-, w, rest, i, -, -, hi⟩
  · exact (Lockstep.self s).startSession.run.trans ((Primitive.jump _).isRun _)
  · exact (Primitive.elapse 0).isRun s
  · exact ((Primitive.setIssue rest).isRun s).trans (run_of_exec hi)

/-- Every step is a run of primitives. -/
theorem run_of_step (h : step s = .next t) : Run s t := by
  have dropped : Run s (dropTrigger s) := (Primitive.setHost _).isRun s
  obtain ⟨-, ⟨-, hi⟩ | ⟨-, hp⟩⟩ := step_next h
  · exact dropped.trans (run_of_stepIdle hi)
  · exact dropped.trans (run_of_stepPhase hp)

/-! ## What a run keeps -/

theorem Primitive.run_cfg (p : Primitive) (s : State) : (p.run s).cfg = s.cfg := by
  cases p with
  | put r v => exact put_cfg s r v
  | _ => rfl

theorem Primitive.now_le_run (p : Primitive) (s : State) : s.now ≤ (p.run s).now := by
  cases p with
  | pin r b => exact (now_le_edgeTime s).trans (Nat.le_add_right _ _)
  | setDir d => exact Nat.le_add_right _ _
  | elapse d => exact (Nat.le_add_right _ _).trans (Nat.le_add_right _ _)
  | observe => exact Nat.le_add_right _ _
  | put r v => exact (put_now s r v).ge
  | _ => exact le_refl _

theorem Primitive.trace_run (p : Primitive) (s : State) : s.trace <+: (p.run s).trace := by
  cases p with
  | pin r b => exact List.prefix_append _ _
  | setDir d => exact List.prefix_append _ _
  | observe => exact List.prefix_append _ _
  | put r v => exact (put_trace s r v).symm ▸ List.prefix_rfl
  | _ => exact List.prefix_rfl

theorem Primitive.unwritten_run (p : Primitive) (s : State) : (p.run s).unwritten ⊆ s.unwritten := by
  cases p with
  | put r v => exact (put_unwritten s r v).symm ▸ List.filter_subset_self _
  | _ => exact List.Subset.refl _

/-- No run writes the configuration (10_state.md R40, R42). -/
theorem cfg_of_run (h : Run s t) : t.cfg = s.cfg := by
  induction h with
  | refl => rfl
  | tail _ hp ih =>
    obtain ⟨p, rfl⟩ := hp
    exact (p.run_cfg _).trans ih

/-- Time never goes back (10_state.md R38). -/
theorem now_le_of_run (h : Run s t) : s.now ≤ t.now := by
  induction h with
  | refl => exact le_refl _
  | tail _ hp ih =>
    obtain ⟨p, rfl⟩ := hp
    exact ih.trans (p.now_le_run _)

/-- The trace is only ever extended (10_state.md R39). -/
theorem trace_of_run (h : Run s t) : s.trace <+: t.trace := by
  induction h with
  | refl => exact List.prefix_rfl
  | tail _ hp ih =>
    obtain ⟨p, rfl⟩ := hp
    exact ih.trans (p.trace_run _)

/-- A register that has been written stays so (70_reset_and_hazards.md R292). -/
theorem unwritten_of_run (h : Run s t) : t.unwritten ⊆ s.unwritten := by
  induction h with
  | refl => exact List.Subset.refl _
  | tail _ hp ih =>
    obtain ⟨p, rfl⟩ := hp
    exact List.Subset.trans (p.unwritten_run _) ih

/-- Settles O4: a step or an operation is a run. -/
theorem configurationIsNeverWritten : Obligations.ConfigurationIsNeverWritten := fun _ _ =>
  ⟨fun h => cfg_of_run (run_of_step h), fun _ h => cfg_of_run (run_of_exec h)⟩

/-- Settles O5: a step or an operation is a run. -/
theorem timeAndTraceOnlyGrow : Obligations.TimeAndTraceOnlyGrow := fun _ _ =>
  ⟨fun h => ⟨now_le_of_run (run_of_step h), trace_of_run (run_of_step h)⟩,
   fun _ h => ⟨now_le_of_run (run_of_exec h), trace_of_run (run_of_exec h)⟩⟩

/-! ## The outcome of a finished session -/

/-- The start of a session writes every field of the outcome (45_session.md R221). -/
theorem startSession_writes_outcome (a : Option Action) (s : State) :
    ∀ r ∈ outcomeFields, r ∉ (startSession a s).unwritten := by
  have hlists : ∀ r ∈ outcomeFields,
      r = .oAction ∨ r ∈ optionalFields ∨ r ∈ [Reg.oErased, .oEscalated, .oWrote] := by
    decide
  have hkeys : (optionalFields.map fun r => (r, Val.absent)).map (·.1) = optionalFields := rfl
  intro r hr hm
  simp only [startSession, mem_putAll_unwritten, hkeys] at hm
  obtain ⟨⟨⟨-, hflags⟩, habsent⟩, hdone⟩ := hm
  rcases hlists r hr with rfl | h | h
  · exact hflags (by simp)
  · exact habsent h
  · exact hdone h

theorem exitPhase_valid (s : State) : (exitPhase s).outcome.valid = true := rfl

/-- A session ends by publishing its outcome (10_state.md R37, 45_session.md R222). -/
theorem runSession_valid (a : Option Action) (s : State) : (runSession a s).outcome.valid = true := by
  unfold runSession
  dsimp only
  split <;> exact exitPhase_valid _

/-- A read of a published outcome whose fields have all been written gives it, and changes nothing (10_state.md R37). -/
theorem hostReadOutcome_of_written (hv : t.outcome.valid = true) (hw : ∀ r ∈ outcomeFields, r ∉ t.unwritten) :
    hostReadOutcome t = .next (t.outcome, t) := by
  rw [hostReadOutcome, if_pos hv, noteReads_of_written hw]

/-- Settles O7: the start of the session writes every field of the outcome, and no later primitive undoes that. -/
theorem hostReadsFinishedSession : Obligations.HostReadsFinishedSession := by
  intro a s hc hp
  refine ⟨runSession a s, ?_, hostReadOutcome_of_written (runSession_valid a s) fun r hr hm => ?_⟩
  · exact (whenConfigured_ok hc _).trans (if_pos hp)
  · exact startSession_writes_outcome a s r hr (unwritten_of_run (run_after_startSession a s) hm)

end Sys2Proof.Machine
end

section
/-! Steps of a session (10_state.md R31, R33; 45_session.md R223, R224, R236): which operation a step is, and what the
lists of micro-operations leave alone. -/

namespace Sys2Proof.Machine

/-! ## A step inside a session -/

/-- The registers that a step of a phase reads before its micro-operation, told by name (log 8). -/
theorem any_phaseReads (p : Phase) (u : List Reg) :
    ((phaseReads p).any fun r => u.contains r)
      = decide ((p ∈ [Phase.pRead, .pWrite, .pVerify] ∧ Reg.desc ∈ u) ∨ (p = .pVerify ∧ Reg.erased ∈ u)) := by
  rw [Bool.eq_iff_iff, any_unwritten_iff]
  cases p <;> simp [phaseReads]

/-- A step inside a session runs exec of the micro-operation the pc names (10_state.md R31). -/
theorem stepPhase_of_op {p : Phase} {s t : State} {i : Instr} (hi : (uprog p s)[s.pc.upc]? = some i)
    (ht : exec i (noteReads (phaseReads p) s) = .next t) :
    stepPhase p s = .next (advance (microEnds i (noteReads (phaseReads p) s)) t) := by
  simp only [stepPhase, hi, runMicro, ht]

/-- `upc` moves on unless the micro-operation is a POLL that does not end its wait (40_link.md R124). -/
theorem advance_microEnds (i : Instr) (s t : State) :
    advance (microEnds i s) t =
      { t with pc := { t.pc with upc := if i = .poll ∧ pollEnds s = false then t.pc.upc else t.pc.upc + 1 } } := by
  by_cases hi : i = .poll <;> cases he : pollEnds s <;> simp [advance, microEnds, hi, he]

/-- Settles O49: the step notes the reads of the phase's list, then runs the operation. -/
theorem stepRunsMicroOperation : Obligations.StepRunsMicroOperation := by
  intro s u t i hc hp hi hu ht
  have hnote : noteReads (phaseReads s.pc.phase) (dropTrigger s) = u := by
    rw [hu, ← any_phaseReads]
    rfl
  have hstep := stepPhase_of_op (s := dropTrigger s) hi (by rw [hnote]; exact ht)
  rw [step_of_phase hc hp, hstep, hnote, advance_microEnds]

/-! ## What a micro-operation leaves alone -/

/-- A micro-operation that does not write the register `q` (40_link.md R120 to R125). -/
def spares (q : Reg) : Instr → Bool
  | .set as => as.all fun a => a.reg != q
  | .sample => .acc != q
  | .poll => .wres != q
  | .pin _ _ | .dir _ | .delay _ => true
  | .xfer _ _ | .waitrdy | .enter | .exit | .rdsb _ | .rdsig | .classify _ | .rdfL | .rdfH | .rdfE | .rdlk
  | .wrfL _ | .wrfH _ | .wrfE _ | .erase | .session _ => false

/-- A primitive writes no register but the one it puts. -/
theorem Primitive.readReg_run {p : Primitive} {q : Reg} (h : ∀ v, p ≠ .put q v) (s : State) :
    (p.run s).readReg q = s.readReg q := by
  cases p with
  | put r v => exact readReg_put_other s v fun e => h v (e ▸ rfl)
  | _ => cases q <;> rfl

theorem readReg_sampleIn {q : Reg} (h : q ≠ .acc) (s : State) : (sampleIn s).readReg q = s.readReg q :=
  (readReg_put_other _ _ h).trans (Primitive.readReg_run (p := .observe) nofun s)

/-- A POLL writes no register but `wres` (40_link.md R124). -/
theorem readReg_pollOnce {q : Reg} (h : q ≠ .wres) (s : State) : (pollOnce s).readReg q = s.readReg q := by
  have hobs : (observe s).readReg q = s.readReg q := Primitive.readReg_run (p := .observe) nofun s
  have hcount : (polled s).readReg q = s.readReg q := (countOpen_readReg _ _ q).trans hobs
  cases hl : s.sdoLevel
  · cases hd : deadlinePassed s
    · rw [pollOnce_goesOn (by simp [pollEnds, hl, hd])]
      exact (Primitive.readReg_run (p := .elapse _) nofun _).trans hcount
    · rw [pollOnce_deadline hl hd]
      exact (readReg_put_other _ _ h).trans hcount
  · rw [pollOnce_high hl]
    exact (readReg_put_other _ _ h).trans hobs

/-- A micro-operation leaves a register that it does not write as it was. -/
theorem readReg_of_spares {i : Instr} {s t : State} {q : Reg} (hq : spares q i = true) (h : exec i s = .next t) :
    t.readReg q = s.readReg q := by
  cases i with
  | pin r b =>
    obtain ⟨-, rfl⟩ := exec_pin_next h
    exact Primitive.readReg_run (p := .pin r b) nofun s
  | dir d =>
    obtain ⟨-, rfl⟩ := exec_dir_next h
    exact Primitive.readReg_run (p := .setDir d) nofun s
  | delay p =>
    obtain ⟨-, rfl⟩ := exec_delay_next h
    exact Primitive.readReg_run (p := .elapse _) nofun s
  | sample =>
    obtain ⟨-, -, rfl⟩ := exec_sample_next h
    rw [readReg_sampleIn (bne_iff_ne.1 hq).symm, noteReads_readReg]
  | poll =>
    obtain ⟨-, -, rfl⟩ := exec_poll_next h
    rw [readReg_pollOnce (bne_iff_ne.1 hq).symm, noteReads_readReg]
  | set as =>
    obtain ⟨-, rfl⟩ := exec_set_next h
    have hne : q ∉ as.map (·.reg) := fun hm => by
      obtain ⟨a, ha, rfl⟩ := List.mem_map.1 hm
      exact bne_iff_ne.1 (List.all_eq_true.1 hq a ha) rfl
    rw [countOpen_readReg, readReg_putAll_other (by rwa [setWrites_regs]), noteReads_readReg]
  | _ => cases hq

/-! ## What the lists of micro-operations leave alone -/

@[simp] theorem spares_pin (q : Reg) (r : Role) (b : Bool) : spares q (.pin r b) = true := rfl
@[simp] theorem spares_dir (q : Reg) (d : Dir) : spares q (.dir d) = true := rfl
@[simp] theorem spares_delay (q : Reg) (p : TimeParam) : spares q (.delay p) = true := rfl
@[simp] theorem spares_sample (q : Reg) : spares q .sample = (.acc != q) := rfl
@[simp] theorem spares_poll (q : Reg) : spares q .poll = (.wres != q) := rfl
@[simp] theorem spares_set (q : Reg) (as : List Assign) : spares q (.set as) = as.all fun a => a.reg != q := rfl
@[simp] theorem spares_setOne (q r : Reg) (e : Expr) : spares q (setOne r e) = (r != q) := by
  simp [setOne]

section

variable {q : Reg} (hq : ∀ r ∈ linkRegs, r ≠ q)
include hq

/-- The micro-operations of a wait write registers of the link only (40_link.md R115). -/
theorem expandWait_spares : expandWait.all (spares q) = true := by
  simp only [linkRegs, List.forall_mem_cons] at hq
  simp [expandWait, hq]

/-- The micro-operations of a transfer write registers of the link only (40_link.md R126). -/
theorem expandXfer_spares (w : Widths) (d i : Byte) : (expandXfer w d i).all (spares q) = true := by
  have hwait := expandWait_spares hq
  simp only [linkRegs, List.forall_mem_cons] at hq
  have hshift : ∀ (f g : Frame) (j : BitIdx), (expandShift f g j).all (spares q) = true := by
    simp [expandShift, hq]
  simp only [expandXfer, List.all_append, List.all_flatMap, hwait, hshift]
  simp [hq]

/-- The micro-operations of a sequence write registers of the link only (30_encoding.md R86). -/
theorem expandPairs_spares (w : Widths) (ps : List FramePair) : (expandPairs w ps).all (spares q) = true := by
  simp [expandPairs, List.all_flatMap, expandXfer_spares hq]

/-- RDSIG writes registers of the link and `sig` (30_encoding.md R98). -/
theorem expandRdsig_spares (hs : .sig ≠ q) (c : Config) : (expandRdsig c).all (spares q) = true := by
  simp only [expandRdsig, List.all_append, List.all_flatMap, expandPairs_spares hq]
  simp [expandAccumulate, hs]

/-- RDLK writes registers of the link only (43_fuse_lock.md R184). -/
theorem expandRdlk_spares (c : Config) : (expandRdlk c).all (spares q) = true := by
  rw [expandRdlk, List.all_append, expandPairs_spares hq, expandWait_spares hq]
  rfl

/-- ERASE writes registers of the link only (44_erase.md R210). -/
theorem expandErase_spares (c : Config) : (expandErase c).all (spares q) = true := by
  rw [expandErase, List.all_append, expandPairs_spares hq, expandWait_spares hq]
  rfl

/-- The fuse reads write registers of the link and the fields they record (45_session.md R226, R230). -/
theorem readFusesList_spares {l h e : Reg} (hl : l ≠ q) (hh : h ≠ q) (he : e ≠ q) (c : Config) (d : Descriptor) :
    (readFusesList c d l h e).all (spares q) = true := by
  have hread : ∀ x r, r ≠ q → (readFuseList c x r).all (spares q) = true := by
    intro x r hr
    rw [readFuseList, List.all_append, expandPairs_spares hq]
    simp [hr]
  rw [readFusesList, List.all_append, List.all_append, hread _ _ hl, hread _ _ hh]
  split
  · exact hread _ _ he
  · rfl

end

/-- No phase writes the latched action or its record: only the start of a session does (45_session.md R221, R236). -/
theorem phaseList_spares_action {q : Reg} (hq : q = .action ∨ q = .oAction) (p : Phase) (c : Config)
    (d : Descriptor) (erased : Bool) : (phaseList p c d erased).all (spares q) = true := by
  have hlink : ∀ r ∈ linkRegs, r ≠ q := by
    rcases hq with rfl | rfl <;> decide
  have hne : ∀ r : Reg, r ≠ .action → r ≠ .oAction → r ≠ q := by
    rcases hq with rfl | rfl <;> simp +contextual
  cases p with
  | idle => rfl
  | pUnknown => rfl
  | pEnter => rfl
  | pIdent =>
    have hsig := expandRdsig_spares hlink (hne .sig nofun nofun) c
    simp [phaseList, identList, hsig, hne, -List.all_eq_true]
  | pRead =>
    have hreads := readFusesList_spares hlink (hne .oFuseL0 nofun nofun) (hne .oFuseH0 nofun nofun)
      (hne .oFuseE0 nofun nofun) c d
    simp [phaseList, readList, hreads, expandRdlk_spares hlink, hne, -List.all_eq_true]
  | pErase => simp [phaseList, eraseList, expandErase_spares hlink, hne, -List.all_eq_true]
  | pWrite =>
    cases he : d.efuseDef <;> simp [phaseList, writeList, he, expandPairs_spares hlink, hne, -List.all_eq_true]
  | pVerify =>
    have hreads := readFusesList_spares hlink (hne .oFuseL1 nofun nofun) (hne .oFuseH1 nofun nofun)
      (hne .oFuseE1 nofun nofun) c d
    cases erased <;> simp [phaseList, verifyList, hreads, expandRdlk_spares hlink, hne, -List.all_eq_true]
  | pExit => simp [phaseList, exitList, expandExit, hne]

theorem dropTrigger_readReg (s : State) (q : Reg) : (dropTrigger s).readReg q = s.readReg q :=
  Primitive.readReg_run (p := .setHost { s.host with trigger := false }) nofun s

/-- A step inside a session leaves a register that its phase does not write as it was. -/
theorem readReg_of_stepPhase {p : Phase} {s t : State} {q : Reg}
    (hq : ∀ c d erased, (phaseList p c d erased).all (spares q) = true) (h : stepPhase p s = .next t) :
    t.readReg q = s.readReg q := by
  have hjump (pc : Pc) (u : State) : ({ u with pc := pc } : State).readReg q = u.readReg q :=
    Primitive.readReg_run (p := .jump pc) nofun u
  rcases stepPhase_next h with ⟨i, u, hi, hu, rfl⟩ | ⟨-, rfl⟩
  · have hspared : spares q i = true := List.all_eq_true.1 (hq _ _ _) i (List.mem_of_getElem? hi)
    rw [advance, hjump, readReg_of_spares hspared hu, noteReads_readReg]
  · rw [leavePhase, hjump, noteReads_readReg]

/-- Settles O56: the lists of the phases name neither register of the action. -/
theorem actionIsFixedDuringSession : Obligations.ActionIsFixedDuringSession := by
  intro s t _ hp h
  have hstep : stepPhase s.pc.phase (dropTrigger s) = .next t := (step_of_phase (step_next h).1 hp).symm.trans h
  have hfixed (q : Reg) (hq : q = .action ∨ q = .oAction) : t.readReg q = s.readReg q :=
    (readReg_of_stepPhase (phaseList_spares_action hq s.pc.phase) hstep).trans (dropTrigger_readReg s q)
  exact ⟨Val.action.inj (hfixed .action (.inl rfl)), Val.action.inj (hfixed .oAction (.inr rfl))⟩

end Sys2Proof.Machine
end

section
/-! The state after reset (10_state.md R45; 70_reset_and_hazards.md R290) and the lock decode (10_state.md R35). -/

namespace Sys2Proof.Machine

/-- Settles O1: the fields of reset as they are written; a register is listed unwritten unless it is `wres` or
`oValid`. -/
theorem resetHoldsStatedValues : Obligations.ResetHoldsStatedValues := by
  have hunwritten : ∀ r, r ∈ resetUnwritten ↔ r ≠ .wres ∧ r ≠ .oValid := by
    intro r
    cases r <;> decide
  exact ⟨rfl, rfl, rfl, rfl, rfl, rfl, rfl, rfl, hunwritten⟩

/-- The decode is the complement of bit 0 (10_state.md R35). -/
theorem isLocked_iff (lb : Byte) : isLocked lb = true ↔ lb.getLsbD 0 = false := by
  rw [isLocked, lockBit1, Bool.not_eq_true']

/-- Settles O38: the decode is computed from bit 0. -/
theorem lockDecodeIsBitZero : Obligations.LockDecodeIsBitZero := by
  intro lb
  refine ⟨rfl, rfl, isLocked_iff lb, fun lb' h => ?_⟩
  rw [Bool.eq_iff_iff, isLocked_iff, isLocked_iff, h]

/-- At reset the pc is the one position of the empty list of IDLE, and `desc` is unknown. -/
theorem pcOk_reset : PcOk State.reset := ⟨le_refl _, nofun, by decide⟩

/-- At reset no micro-operation is complete, and the lines are at rest. -/
theorem linesOk_reset : LinesOk State.reset := ⟨rfl, rfl⟩

/-- The registers that R45 calls unspecified are the ones IDLE allows to be unwritten. -/
theorem writtenOk_reset : WrittenOk State.reset := ⟨fun _ h => h, rfl⟩

/-- An empty trace is in order. -/
theorem traceOk_reset : TraceOk State.reset := ⟨.nil, nofun, nofun⟩

/-- Settles O52: each part of the invariant at reset. -/
theorem sessionInvariantAtReset : Obligations.SessionInvariantAtReset :=
  ⟨by decide, rfl, pcOk_reset, linesOk_reset, writtenOk_reset, nofun, traceOk_reset⟩

end Sys2Proof.Machine
end

section
/-! The decoder and the encoder (30_encoding.md R81, R86 to R92): reading a list of frame pairs against a sequence of
`CMD` is the converse of writing it out, so decoding and encoding agree. -/

namespace Sys2Proof.Laws

open Sys2Proof.Machine

/-! ## One entry of `CMD` -/

/-- A frame pair is taken for an entry exactly where it is the entry's own with the byte seen on SDI for the operand
(30_encoding.md R83). -/
theorem accepts_iff {pad : Byte} {e : CmdEntry} {p : FramePair} :
    (e.sii = p.sii ∧ e.sdi.accepts pad p.sdi = true) ↔ p = e.pair pad p.sdi := by
  obtain ⟨field, sii⟩ := e
  obtain ⟨d, i⟩ := p
  cases field <;> simp [SdiField.accepts, SdiField.resolve, CmdEntry.pair, eq_comm, and_comm]

/-- The operand does not show in a fixed entry (30_encoding.md R88). -/
theorem pair_of_fixedEntry {e : CmdEntry} (h : fixedEntry e = true) (pad u v : Byte) : e.pair pad u = e.pair pad v := by
  obtain ⟨field, sii⟩ := e
  cases field with
  | operand => cases h
  | byte b => rfl
  | pad => rfl

theorem map_pair_of_fixed {es : List CmdEntry} (h : es.all fixedEntry = true) (pad u v : Byte) :
    es.map (·.pair pad u) = es.map (·.pair pad v) :=
  List.map_congr_left fun e he => pair_of_fixedEntry (List.all_eq_true.1 h e he) pad u v

/-! ## Reading a sequence -/

theorem matchSeq_cons {pad v w : Byte} {e : CmdEntry} {es : List CmdEntry} {p : FramePair} {ps : List FramePair} :
    matchSeq pad (e :: es) (p :: ps) v = some w ↔
      p = e.pair pad p.sdi ∧ matchSeq pad es ps (if e.sdi = .operand then p.sdi else v) = some w := by
  rw [matchSeq, ← accepts_iff]
  split <;> simp_all

/-- A sequence of fixed entries is read where the frame pairs are its own, and leaves the operand alone. -/
theorem matchSeq_of_fixed {pad v w : Byte} (x : Byte) {es : List CmdEntry} (h : es.all fixedEntry = true)
    {ps : List FramePair} : matchSeq pad es ps v = some w ↔ w = v ∧ ps = es.map (·.pair pad x) := by
  induction es generalizing ps with
  | nil => cases ps <;> simp [matchSeq, eq_comm]
  | cons e es ih =>
    rw [List.all_cons, Bool.and_eq_true] at h
    obtain ⟨he, hes⟩ := h
    cases ps with
    | nil => simp [matchSeq]
    | cons p ps =>
      have hne : e.sdi ≠ .operand := bne_iff_ne.1 he
      rw [matchSeq_cons, if_neg hne, ih hes, pair_of_fixedEntry he pad p.sdi x, List.map_cons, List.cons.injEq]
      tauto

/-- A sequence whose operand is in frame 2 is read where the frame pairs are its own for some operand, and gives that
operand (30_encoding.md R83, R87). -/
theorem matchSeq_of_operandShape {pad v w : Byte} {es : List CmdEntry} (h : operandShape es = true)
    {ps : List FramePair} : matchSeq pad es ps v = some w ↔ ps = es.map (·.pair pad w) := by
  match es, h with
  | [e1, ⟨field, sii⟩, e3, e4], h =>
    simp only [operandShape, Bool.and_eq_true, beq_iff_eq] at h
    obtain ⟨⟨⟨h1, rfl⟩, h3⟩, h4⟩ := h
    have hrest : [e3, e4].all fixedEntry = true := by simp [h3, h4]
    match ps with
    | [] => simp [matchSeq]
    | [p1] => simp [matchSeq]
    | p1 :: p2 :: ps =>
      rw [matchSeq_cons, matchSeq_cons, if_pos rfl, matchSeq_of_fixed w hrest, pair_of_fixedEntry h1 pad p1.sdi w]
      constructor
      · rintro ⟨hp1, hp2, rfl, rfl⟩
        rw [hp1, hp2]
        rfl
      · intro hps
        cases hps
        exact ⟨rfl, rfl, rfl, rfl⟩

/-! ## The sequences of a valid configuration -/

/-- The shapes of the nine sequences of a valid `CMD` (30_encoding.md R86, R88). -/
theorem cmd_shapes {c : Config} (h : configOk c = true) :
    operandShape c.cmd.rdsb = true ∧ (∀ x, (c.cmd.read x).all fixedEntry = true) ∧
      c.cmd.rdLk.all fixedEntry = true ∧ (∀ x, operandShape (c.cmd.write x) = true) ∧
      c.cmd.erase.all fixedEntry = true := by
  have hc := cmdOk_of_configOk h
  simp only [cmdOk, fixedShape, Bool.and_eq_true] at hc
  obtain ⟨⟨⟨⟨⟨⟨⟨⟨hrdsb, -, hl⟩, -, hh⟩, -, he⟩, -, hlk⟩, hwl⟩, hwh⟩, hwe⟩, -, herase⟩ := hc
  exact ⟨hrdsb, fun x => by cases x <;> assumption, hlk, fun x => by cases x <;> assumption, herase⟩

/-- The entries of a fuse write have the operand in frame 2 only (43_fuse_lock.md R185). -/
theorem operandShape_writeEntries {c : Config} (h : configOk c = true) (x : FuseSel) :
    operandShape (c.writeEntries x) = true := by
  obtain ⟨-, -, -, hwrite, -⟩ := cmd_shapes h
  have hx := hwrite x
  unfold Config.writeEntries
  match c.cmd.write x, hx with
  | [e1, e2, e3, e4], hx =>
    have hpad (i : Byte) : fixedEntry ⟨.pad, i⟩ = true := rfl
    simp only [operandShape, Bool.and_eq_true] at hx
    simp [operandShape, hx, hpad]

/-- Frames 3 and 4 of a fuse write are those of its Fuse Address (30_encoding.md R92; log 27). -/
theorem addrFrames_of_configOk {c : Config} (h : configOk c = true) (x : FuseSel) :
    ((c.cmd.write x).drop 2).map (·.pair c.padData 0)
      = [⟨c.padData, (c.fuseAddr.get x).extractLsb' 8 8⟩, ⟨c.padData, (c.fuseAddr.get x).extractLsb' 0 8⟩] := by
  simp only [configOk, fuseAddrOk, addrFramesOk, Bool.and_eq_true, beq_iff_eq] at h
  obtain ⟨⟨-, ⟨⟨-, hl⟩, hh⟩, he⟩, -⟩ := h
  cases x <;> assumption

/-- The frames after the second of a sequence with an operand are fixed (30_encoding.md R88). -/
theorem fixed_of_operandShape {es : List CmdEntry} (h : operandShape es = true) :
    (es.drop 2).all fixedEntry = true := by
  match es, h with
  | [e1, e2, e3, e4], h =>
    simp only [operandShape, Bool.and_eq_true] at h
    simp [h]

theorem writePairs_eq_cmd {c : Config} (h : configOk c = true) (x : FuseSel) (v : Byte) :
    c.writePairs x v = (c.cmd.write x).map (·.pair c.padData v) := by
  obtain ⟨-, -, -, hwrite, -⟩ := cmd_shapes h
  have hlast : ((c.cmd.write x).drop 2).map (·.pair c.padData v)
      = [⟨c.padData, (c.fuseAddr.get x).extractLsb' 8 8⟩, ⟨c.padData, (c.fuseAddr.get x).extractLsb' 0 8⟩] :=
    (map_pair_of_fixed (fixed_of_operandShape (hwrite x)) c.padData v 0).trans (addrFrames_of_configOk h x)
  calc c.writePairs x v
      = ((c.cmd.write x).take 2).map (·.pair c.padData v) ++ ((c.cmd.write x).drop 2).map (·.pair c.padData v) := by
        rw [hlast, Config.writePairs, Config.writeEntries, List.map_append]
        rfl
    _ = (c.cmd.write x).map (·.pair c.padData v) := by rw [← List.map_append, List.take_append_drop]

/-- Settles O11: the operand shows in no fixed frame, and the frames of a Fuse Address are those of `CMD`. -/
theorem operationsSendPairsOfCmd : Obligations.OperationsSendPairsOfCmd := by
  intro c x v h
  obtain ⟨-, hread, hlock, -, herase⟩ := cmd_shapes h
  refine ⟨writePairs_eq_cmd h x v, map_pair_of_fixed (hread x) _ _ _, map_pair_of_fixed hlock _ _ _,
    map_pair_of_fixed herase _ _ _, rfl, ?_⟩
  simp [Config.rdsigPairs, Config.sigOrder]

/-! ## Decoding and encoding -/

/-- What each operation of more than one frame pair is read as, in the order of spec/opcode_table.json (log 35). -/
def readings (c : Config) (ps : List FramePair) : List (Option Instr) :=
  [(matchSeq c.padData c.cmd.rdsb ps 0).map .rdsb, decodeRdsig c ps,
   (matchSeq c.padData c.cmd.rdL ps 0).map fun _ => .rdfL, (matchSeq c.padData c.cmd.rdH ps 0).map fun _ => .rdfH,
   (matchSeq c.padData c.cmd.rdE ps 0).map fun _ => .rdfE, (matchSeq c.padData c.cmd.rdLk ps 0).map fun _ => .rdlk,
   (matchSeq c.padData (c.writeEntries .low) ps 0).map .wrfL,
   (matchSeq c.padData (c.writeEntries .high) ps 0).map .wrfH,
   (matchSeq c.padData (c.writeEntries .ext) ps 0).map .wrfE,
   (matchSeq c.padData c.cmd.erase ps 0).map fun _ => .erase]

/-- The first reading is decoded (log 35). -/
theorem decodeSeq_eq (c : Config) (ps : List FramePair) : decodeSeq c ps = (readings c ps).findSome? id := by
  have hfirst (a : Option Instr) (rs : List (Option Instr)) :
      (a :: rs).findSome? id = (a <|> rs.findSome? id) := by
    cases a <;> rfl
  simp [decodeSeq, readings, hfirst]

/-- An operation of more than one frame pair, where it has an encoding (30_encoding.md R86, R94, R95). -/
def sendsSequence : Instr → Bool
  | .rdsb _ | .rdsig | .rdfL | .rdfH | .rdfE | .rdlk | .wrfL _ | .wrfH _ | .wrfE _ | .erase => true
  | .xfer _ _ | .waitrdy | .pin _ _ | .dir _ | .delay _ | .sample | .poll | .set _ | .enter | .exit | .classify _
  | .session _ => false

/-- A list of frame pairs is read as the operations whose encoding it is (30_encoding.md R87). -/
theorem mem_readings_iff {c : Config} (h : configOk c = true) {ps : List FramePair} {i : Instr} :
    some i ∈ readings c ps ↔ sendsSequence i = true ∧ encode c i = some ps := by
  obtain ⟨hrdsb, hread, hlock, -, herase⟩ := cmd_shapes h
  have hwrite := operandShape_writeEntries h
  have hl : c.cmd.rdL.all fixedEntry = true := hread .low
  have hh : c.cmd.rdH.all fixedEntry = true := hread .high
  have he : c.cmd.rdE.all fixedEntry = true := hread .ext
  simp only [readings, decodeRdsig, List.mem_cons, List.not_mem_nil, or_false, eq_comm (a := some i),
    Option.map_eq_some_iff, matchSeq_of_operandShape hrdsb, matchSeq_of_operandShape (hwrite _),
    matchSeq_of_fixed 0 hl, matchSeq_of_fixed 0 hh, matchSeq_of_fixed 0 he, matchSeq_of_fixed 0 hlock,
    matchSeq_of_fixed 0 herase]
  cases i <;>
    simp [encode, sendsSequence, Config.rdsbPairs, Config.readPairs, CmdTable.read, Config.lockPairs,
      Config.writePairs, Config.erasePairs, eq_comm]

/-- What a decoded list is: one frame pair is an XFER, a longer list is the first operation it is read as
(30_encoding.md R81, R87). -/
theorem decodePairs_eq_ok_iff {c : Config} {ps : List FramePair} {i : Instr} :
    decodePairs c ps = .ok i ↔ (∃ p, ps = [p] ∧ i = .xfer p.sdi p.sii) ∨
      (ps.length ≠ 1 ∧ ps.length ∈ operationLengths ∧ decodeSeq c ps = some i) := by
  match ps with
  | [] => simp [decodePairs, operationLengths]
  | [p] => simp [decodePairs, eq_comm]
  | p :: q :: ps =>
    simp only [decodePairs]
    split
    · rename_i hlen
      cases decodeSeq c (p :: q :: ps) <;> simp_all
    · simp_all

/-- A sequence is longer than the one frame pair of XFER (30_encoding.md R86). -/
theorem sequence_length {c : Config} (h : configOk c = true) {i : Instr} {ps : List FramePair}
    (hi : sendsSequence i = true) (he : encode c i = some ps) :
    ps.length ≠ 1 ∧ ps.length ∈ operationLengths := by
  have hlen : ps.length = 3 ∨ ps.length = 4 ∨ ps.length = 8 := by
    cases i with
    | rdsb idx => cases he; exact .inr (.inl (length_rdsbPairs h idx))
    | rdsig => cases he; simp [Config.rdsigPairs, Config.sigOrder, length_rdsbPairs h]
    | rdfL => cases he; exact .inl (length_readPairs h .low)
    | rdfH => cases he; exact .inl (length_readPairs h .high)
    | rdfE => cases he; exact .inl (length_readPairs h .ext)
    | rdlk => cases he; exact .inl (length_lockPairs h)
    | wrfL v => cases he; exact .inr (.inl (length_writePairs h .low v))
    | wrfH v => cases he; exact .inr (.inl (length_writePairs h .high v))
    | wrfE v => cases he; exact .inr (.inl (length_writePairs h .ext v))
    | erase => cases he; exact .inl (length_erasePairs h)
    | _ => cases hi
  rcases hlen with hlen | hlen | hlen <;> rw [hlen] <;> decide

/-- Settles O9: the first reading of a list is one of its readings. -/
theorem encodeOfDecode : Obligations.EncodeOfDecode := by
  intro c i ps h hd
  rcases decodePairs_eq_ok_iff.1 hd with ⟨p, rfl, rfl⟩ | ⟨-, -, hseq⟩
  · rfl
  · rw [decodeSeq_eq] at hseq
    obtain ⟨r, hr, hri⟩ := List.exists_of_findSome?_eq_some hseq
    cases hri
    exact ((mem_readings_iff h).1 hr).2

/-- An operation with an encoding is an XFER or sends a sequence. -/
theorem sends_of_encode {c : Config} {i : Instr} {ps : List FramePair} (he : encode c i = some ps) :
    (∃ d b, i = .xfer d b) ∨ sendsSequence i = true := by
  cases i <;> simp_all [encode, sendsSequence]

/-- The encoding of an operation decodes: it is read as that operation, so there is a first reading. -/
theorem exists_decodePairs_of_encode {c : Config} (h : configOk c = true) {i : Instr} {ps : List FramePair}
    (he : encode c i = some ps) : ∃ j, decodePairs c ps = .ok j := by
  rcases sends_of_encode he with ⟨d, b, rfl⟩ | hi
  · cases he
    exact ⟨_, rfl⟩
  · have hr : some i ∈ readings c ps := (mem_readings_iff h).2 ⟨hi, he⟩
    have hsome : ((readings c ps).findSome? id).isSome = true := List.findSome?_isSome_iff.2 ⟨some i, hr, rfl⟩
    obtain ⟨j, hj⟩ := Option.isSome_iff_exists.1 hsome
    obtain ⟨hne, hlen⟩ := sequence_length h hi he
    exact ⟨j, decodePairs_eq_ok_iff.2 (.inr ⟨hne, hlen, (decodeSeq_eq c ps).trans hj⟩)⟩

/-- The rows of the default `CMD` differ in a byte that is no operand, so no earlier row is read (30_encoding.md R87,
R90). -/
theorem decodePairs_of_encode_default {i : Instr} {ps : List FramePair} (he : encode Config.default i = some ps) :
    decodePairs Config.default ps = .ok i := by
  cases i with
  | xfer | rdsb | rdsig | rdfL | rdfH | rdfE | rdlk | wrfL | wrfH | wrfE | erase => cases he; rfl
  | _ => cases he

/-- Settles O8: the encoding is decoded to one of its readings, and with the default `CMD` to the operation itself. -/
theorem decodeOfEncode : Obligations.DecodeOfEncode := by
  intro c i ps h he
  obtain ⟨j, hj⟩ := exists_decodePairs_of_encode h he
  refine ⟨⟨j, hj, encodeOfDecode c j ps h hj⟩, ?_⟩
  rintro rfl
  exact decodePairs_of_encode_default he

/-- Settles O10: what decodes has one frame pair, or the length of an operation. -/
theorem otherLengthsAreRefused : Obligations.OtherLengthsAreRefused := by
  intro c ps hlen
  cases hd : decodePairs c ps with
  | error e => exact ⟨e, rfl⟩
  | ok i =>
    rcases decodePairs_eq_ok_iff.1 hd with ⟨p, rfl, -⟩ | ⟨-, hin, -⟩
    · exact absurd (by simp) hlen
    · exact absurd hin hlen

/-- Settles O12: no arm of the encoder gives these operations frame pairs. -/
theorem unencodedOperations : Obligations.UnencodedOperations := fun _ =>
  ⟨rfl, fun _ _ => rfl, fun _ => rfl, fun _ => rfl, rfl, rfl, fun _ => rfl, rfl, rfl, fun _ => rfl, fun _ => rfl⟩

/-- Settles O13: the default `CMD` read off on the words of the table. -/
theorem tableWordsDecode : Obligations.TableWordsDecode := ⟨rfl, rfl, rfl, rfl, rfl, rfl, rfl⟩

/-! ## The frame of a byte -/

/-- A frame bit at or above `PAD_TRAIL` is the byte's bit that many places lower (30_encoding.md R80). -/
theorem getLsbD_frameOf (w : Widths) (b : Byte) (k : Nat) :
    (frameOf w b).getLsbD k = (decide (k < frameBits) && !decide (k < w.padTrail) && b.getLsbD (k - w.padTrail)) := by
  by_cases hk : k < frameBits
  · simp [frameOf, hk]
  · simp [frameOf, hk]

/-- Settles O15: the bits of a frame, one by one, where the pads and the byte fill it. -/
theorem padsFillTheFrame : Obligations.PadsFillTheFrame := by
  intro c b h
  obtain ⟨-, -, -, hwidths, -, -⟩ := widths_of_configOk h
  have hfill : c.widths.padLead + 8 + c.widths.padTrail = 11 := hwidths
  refine ⟨fun k hk => ?_, BitVec.eq_of_getLsbD_eq fun k hk => ?_, fun k hk => ?_, ?_⟩
  · have hhigh : 8 ≤ 10 - k - c.widths.padTrail := by omega
    rw [getLsbD_frameOf, BitVec.getLsbD_of_ge b _ hhigh, Bool.and_false]
  · have hin : c.widths.padTrail + k < 11 := by omega
    rw [BitVec.getLsbD_extractLsb', getLsbD_frameOf]
    simp [hk, hin]
  · simp [getLsbD_frameOf, hk]
  · rw [frameBitOrder_of_configOk h]
    rfl

/-- Settles O14: the default widths are those of a valid configuration. -/
theorem frameOfByte : Obligations.FrameOfByte := by
  intro b
  obtain ⟨hlead, hbyte, htrail, -⟩ := padsFillTheFrame Config.default b (by decide)
  refine ⟨rfl, hlead 0 (by decide), hbyte, BitVec.eq_of_getLsbD_eq fun k hk => ?_⟩
  simpa [hk] using show (frameOf Widths.default b).getLsbD k = false from htrail k hk

end Sys2Proof.Laws
end

section
/-! The harness's port (log 10): a step in IDLE that runs what is issued. -/

namespace Sys2Proof.Machine

/-- Where no trigger is pending there is none to drop. -/
theorem dropTrigger_of_none {s : State} (h : s.host.trigger = false) : dropTrigger s = s := by
  have hhost : { s.host with trigger := false } = s.host := by rw [← h]
  rw [dropTrigger, hhost]

/-- Settles O50: the step in IDLE, with the head of the queue decoded. -/
theorem stepRunsIssuedOperation : Obligations.StepRunsIssuedOperation := by
  intro s ps rest i hc hp ht hi hd
  rw [step_of_idle hc hp, dropTrigger_of_none ht, ht, stepIdle, if_neg Bool.false_ne_true, hi]
  simp only [runIssue, fetchIssue, hd]

end Sys2Proof.Machine
end

section
/-! What a session sends (45_session.md R222, R223, R234): the requests of the link of each phase, followed through a
session, and the registers that say which path it took. Together they make the events of a session `IsSession` of
`sessionLinks`. -/

namespace Sys2Proof.Machine

/-! ## When the events of a run happened -/

variable {s t u : State}

theorem Primitive.eventsWithin_run (p : Primitive) (s : State) : EventsWithin s (p.run s) := by
  have hsingle {t : State} {e : Event} (h : t.trace = s.trace ++ [e]) (h1 : s.now ≤ e.time) (h2 : e.time ≤ t.now) :
      EventsWithin s t := by
    rw [EventsWithin, newEvents_append h]
    simp [h1, h2]
  cases p with
  | pin r b => exact eventsWithin_pin r b s
  | setDir d => exact hsingle rfl (le_refl _) (Nat.le_add_right _ _)
  | observe => exact hsingle rfl (le_refl _) (Nat.le_add_right _ _)
  | put r v => exact eventsWithin_of_trace_eq (put_trace s r v)
  | _ => exact eventsWithin_of_trace_eq rfl

/-- The events of a run happened between its two times (10_state.md R38, R39). -/
theorem eventsWithin_of_run (h : Run s t) : EventsWithin s t := by
  induction h with
  | refl => exact eventsWithin_of_trace_eq rfl
  | @tail t u hst hp ih =>
    obtain ⟨p, rfl⟩ := hp
    intro e he
    rw [newEvents_trans (trace_of_run hst) (p.trace_run t), List.mem_append] at he
    rcases he with he | he
    · exact ⟨(ih e he).1, (ih e he).2.trans (p.now_le_run t)⟩
    · exact ⟨(now_le_of_run hst).trans (p.eventsWithin_run t e he).1, (p.eventsWithin_run t e he).2⟩

/-! ## The path of a session -/

/-- The registers that tell the path of a session, with their records in the outcome (45_session.md R223, R227). -/
structure SessionPath where
  device : Option DescIdx
  action : Action
  recordedAction : Action
  erased : Bool
  recordedErased : Bool
  recordedEscalated : Bool

/-- The path a state is on. -/
def State.path (s : State) : SessionPath where
  device := s.ident.desc
  action := s.sess.action
  recordedAction := s.outcome.action
  erased := s.sess.erased
  recordedErased := s.outcome.erased
  recordedEscalated := s.outcome.escalated

/-- The path of a session that has latched an action and has not erased (45_session.md R221). -/
def SessionPath.begun (device : Option DescIdx) (a : Action) : SessionPath := ⟨device, a, a, false, false, false⟩

/-- The path after an erase, or with none: an erase under WriteDefaults is an escalation (45_session.md R227). -/
def SessionPath.acted (p : SessionPath) (erases : Bool) : SessionPath :=
  { p with
    erased := erases
    recordedErased := erases
    recordedEscalated := erases && isEscalation p.action }

@[simp] theorem acted_begun_false (device : Option DescIdx) (a : Action) :
    (SessionPath.begun device a).acted false = .begun device a := rfl
@[simp] theorem acted_erased (p : SessionPath) (erases : Bool) : (p.acted erases).erased = erases := rfl
@[simp] theorem begun_erased (device : Option DescIdx) (a : Action) : (SessionPath.begun device a).erased = false := rfl

/-- The registers whose writes change the path. -/
def pathRegs : List Reg := [.desc, .action, .oAction, .erased, .oErased, .oEscalated]

theorem path_put {r : Reg} (hr : r ∉ pathRegs) (s : State) (v : Val) : (s.put r v).path = s.path := by
  cases r <;> first | rfl | exact absurd (by decide) hr

theorem path_putAll {ws : List (Reg × Val)} (hw : ∀ w ∈ ws, w.1 ∉ pathRegs) (s : State) :
    (s.putAll ws).path = s.path := by
  induction ws generalizing s with
  | nil => rfl
  | cons w ws ih =>
    rw [List.forall_mem_cons] at hw
    exact (ih hw.2 _).trans (path_put hw.1 s w.2)

/-- An operation of the link stays on the path (40_link.md R126). -/
theorem path_of_linkStep (h : LinkStep s t) : t.path = s.path := by
  simp only [State.path, h.ident, h.sess, h.outcome]

/-! ## The requests of the link -/

/-- From `s` to `t`, which is on the path `p`, the link was asked `ops`, one after the other, and nothing else took time
or added to the trace (40_link.md R117). -/
structure LinkRan (ops : List LinkOp) (p : SessionPath) (s t : State) : Prop where
  cfg : t.cfg = s.cfg
  path : t.path = p
  trace : s.trace <+: t.trace
  bytes : ∃ bs, IsLinkRun s.cfg ops bs s.now (newEvents s t) t.now

namespace LinkRan

variable {ops : List LinkOp} {p q : SessionPath}

theorem refl (s : State) : LinkRan [] s.path s s := ⟨rfl, rfl, List.prefix_rfl, [], newEvents_self s, rfl⟩

/-- An operation of the link adds its requests. -/
theorem tail {ops' : List LinkOp} {bs' : List Byte} (h : LinkRan ops p s t) (hs : LinkStep t u)
    (hr : IsLinkRun t.cfg ops' bs' t.now (newEvents t u) u.now) : LinkRan (ops ++ ops') p s u := by
  obtain ⟨bs, hb⟩ := h.bytes
  rw [h.cfg] at hr
  refine ⟨hs.cfg.trans h.cfg, (path_of_linkStep hs).trans h.path, h.trace.trans hs.trace, bs ++ bs', ?_⟩
  rw [newEvents_trans h.trace hs.trace]
  exact isLinkRun_append hb hr

/-- Register writes take no time and add nothing to the trace (00_scope.md R14). -/
theorem write (h : LinkRan ops p s t) {ws : List (Reg × Val)} (hq : (t.putAll ws).path = q) :
    LinkRan ops q s (t.putAll ws) where
  cfg := (putAll_cfg t ws).trans h.cfg
  path := hq
  trace := (putAll_trace t ws).symm ▸ h.trace
  bytes := by
    rw [newEvents, putAll_trace, putAll_now]
    exact h.bytes

theorem putAll (h : LinkRan ops p s t) {ws : List (Reg × Val)} (hw : ∀ w ∈ ws, w.1 ∉ pathRegs) :
    LinkRan ops p s (t.putAll ws) :=
  h.write ((path_putAll hw t).trans h.path)

theorem put (h : LinkRan ops p s t) {r : Reg} {v : Val} (hr : r ∉ pathRegs) : LinkRan ops p s (t.put r v) :=
  h.putAll (ws := [(r, v)]) (by simpa using hr)

section

variable (hc : configOk s.cfg = true)
include hc

theorem transferAll (h : LinkRan ops p s t) {ps : List FramePair} :
    LinkRan (ops ++ sends ps) p s (transferAll ps t) := by
  have ht : configOk t.cfg = true := h.cfg ▸ hc
  obtain ⟨bs, -, hr, -⟩ := transferAll_isLinkRun (ps := ps) ht
  exact h.tail (transferAll_linkStep ht) hr

theorem waitReady (h : LinkRan ops p s t) : LinkRan (ops ++ [.wait]) p s (waitReady t) := by
  have ht : t.cfg.timing.pollMin ≠ 0 := pollMin_ne_zero (h.cfg ▸ hc)
  exact h.tail (bs' := []) (waitReady_linkStep ht)
    ⟨_, [], _, (List.append_nil _).symm, waitReady_isWait ht, rfl, rfl⟩

theorem readFuse (h : LinkRan ops p s t) {x : FuseSel} :
    LinkRan (ops ++ sends (s.cfg.readPairs x)) p s (readFuse x t) := by
  rw [Machine.readFuse, h.cfg]
  exact h.transferAll hc

theorem readLock (h : LinkRan ops p s t) : LinkRan (ops ++ lockReadLink s.cfg) p s (readLock t) := by
  rw [Machine.readLock, h.cfg, lockReadLink, ← List.append_assoc]
  exact (h.transferAll hc).waitReady hc

theorem writeFuse (h : LinkRan ops p s t) {x : FuseSel} {v : Byte} :
    LinkRan (ops ++ sends (s.cfg.writePairs x v)) p s (writeFuse x v t) := by
  rw [Machine.writeFuse, h.cfg]
  exact h.transferAll hc

theorem eraseChip (h : LinkRan ops p s t) : LinkRan (ops ++ eraseLink s.cfg) p s (eraseChip t) := by
  rw [Machine.eraseChip, h.cfg, eraseLink, ← List.append_assoc]
  exact (h.transferAll hc).waitReady hc

/-- The signature bytes of some indices, each added to the signature (42_identify.md R160 to R162). -/
theorem readSigBytes (h : LinkRan ops p s t) {idxs : List Byte} :
    LinkRan (ops ++ sends (idxs.flatMap s.cfg.rdsbPairs)) p s
      (idxs.foldl (fun t idx => accumulateSig (readSigByte idx t)) t) := by
  induction idxs generalizing ops t with
  | nil => simpa [sends] using h
  | cons idx idxs ih =>
    have hbyte : LinkRan (ops ++ sends (s.cfg.rdsbPairs idx)) p s (accumulateSig (readSigByte idx t)) := by
      rw [readSigByte, h.cfg]
      exact (h.transferAll hc).put (by decide)
    simpa [sends] using ih hbyte

theorem readSignature (h : LinkRan ops p s t) : LinkRan (ops ++ sends s.cfg.rdsigPairs) p s (readSignature t) := by
  rw [Machine.readSignature, h.cfg]
  exact (h.put (by decide)).readSigBytes hc

/-! ## The phases -/

/-- P_IDENT finds the device (45_session.md R225). -/
theorem identPhase (h : LinkRan ops p s t) :
    LinkRan (ops ++ sends s.cfg.rdsigPairs) { p with device := (identPhase t).ident.desc } s (identPhase t) := by
  have hread := h.readSignature hc
  rw [← hread.path]
  exact (hread.write (ws := [(.desc, _)]) rfl).write rfl

theorem readFuses (h : LinkRan ops p s t) {d : Descriptor} {l hi e : Reg} (hl : l ∉ pathRegs) (hh : hi ∉ pathRegs)
    (he : e ∉ pathRegs) : LinkRan (ops ++ fuseReadsLink s.cfg d) p s (readFuses d l hi e t) := by
  have both : LinkRan (ops ++ (sends (s.cfg.readPairs .low) ++ sends (s.cfg.readPairs .high))) p s
      (recordByte hi (Machine.readFuse .high (recordByte l (Machine.readFuse .low t)))) := by
    rw [← List.append_assoc]
    exact (((h.readFuse hc).put hl).readFuse hc).put hh
  unfold Machine.readFuses fuseReadsLink
  rw [← List.append_assoc]
  dsimp only
  split
  · exact (both.readFuse hc).put he
  · rwa [List.append_nil]

theorem readPhase (h : LinkRan ops p s t) {d : Descriptor} :
    LinkRan (ops ++ (fuseReadsLink s.cfg d ++ lockReadLink s.cfg)) p s (readPhase d t) := by
  rw [← List.append_assoc]
  exact ((h.readFuses hc (by decide) (by decide) (by decide)).readLock hc).putAll (by simp [pathRegs])

/-- P_WRITE (45_session.md R228). -/
theorem writePhase (h : LinkRan ops p s t) {d : Descriptor} :
    LinkRan (ops ++ writesLink s.cfg d) p s (writePhase d t) := by
  have both : LinkRan (ops ++ (sends (s.cfg.writePairs .low d.lfuseDef) ++ sends (s.cfg.writePairs .high d.hfuseDef)))
      p s (Machine.writeFuse .high d.hfuseDef (Machine.writeFuse .low d.lfuseDef t)) := by
    rw [← List.append_assoc]
    exact (h.writeFuse hc).writeFuse hc
  unfold Machine.writePhase writesLink
  rw [← List.append_assoc]
  cases d.efuseDef with
  | none =>
    dsimp only
    rw [List.append_nil]
    exact both.putAll (by simp [pathRegs])
  | some e =>
    dsimp only
    exact (both.writeFuse hc).putAll (by simp [pathRegs])

/-- P_VERIFY reads the lock byte only after an erase (45_session.md R230). -/
theorem verifyPhase (h : LinkRan ops p s t) {d : Descriptor} :
    LinkRan (ops ++ (fuseReadsLink s.cfg d ++ if p.erased then lockReadLink s.cfg else [])) p s (verifyPhase d t) := by
  have reads := h.readFuses hc (d := d) (l := .oFuseL1) (hi := .oFuseH1) (e := .oFuseE1) (by decide) (by decide)
    (by decide)
  have herased : (Machine.readFuses d .oFuseL1 .oFuseH1 .oFuseE1 t).sess.erased = p.erased :=
    congrArg SessionPath.erased reads.path
  unfold Machine.verifyPhase
  rw [← List.append_assoc]
  dsimp only
  rw [herased]
  split
  · exact (reads.readLock hc).putAll (by simp [pathRegs])
  · rwa [List.append_nil]

/-- P_ERASE sets the two flags and their records (45_session.md R227, R229). -/
theorem erasePhase (h : LinkRan ops p s t) :
    LinkRan (ops ++ eraseLink s.cfg) (p.acted true) s (erasePhase t) := by
  have herase := h.eraseChip hc
  rw [← herase.path]
  exact herase.write (by simp [State.path, SessionPath.acted])

/-- What follows P_READ: the erase, the writes and the reads back that the action and the lock ask for
(45_session.md R223, R227). -/
theorem actPhases {device : Option DescIdx} {a : Action} (h : LinkRan ops (.begun device a) s t) {d : Descriptor} :
    ∃ erases, LinkRan (ops ++ ((sessionLinks s.cfg (some d) a erases).drop 2).flatten)
      ((SessionPath.begun device a).acted erases) s (actPhases d t) := by
  have haction : t.sess.action = a := congrArg SessionPath.action h.path
  have hkept : (Machine.erasePhase t).sess.action = a := congrArg SessionPath.action (h.erasePhase hc).path
  unfold Machine.actPhases sessionLinks
  dsimp only
  rw [haction, hkept]
  cases a with
  | readOnly => exact ⟨false, by simpa using h⟩
  | erase => exact ⟨true, by simpa using (h.erasePhase hc).verifyPhase hc (d := d)⟩
  | writeDefaults =>
    cases t.sess.locked0 with
    | true => exact ⟨true, by simpa using ((h.erasePhase hc).writePhase hc (d := d)).verifyPhase hc (d := d)⟩
    | false => exact ⟨false, by simpa using (h.writePhase hc (d := d)).verifyPhase hc (d := d)⟩

end

end LinkRan

/-! ## The whole session -/

/-- The bytes of a run of the link are as many as the frame pairs it sends. -/
theorem length_of_isLinkRun {c : Config} {ops : List LinkOp} {bs : List Byte} {evs : List Event} {begun ended : Nat}
    (h : IsLinkRun c ops bs begun evs ended) : bs.length = sendCount ops := by
  induction ops generalizing bs evs begun with
  | nil =>
    cases bs with
    | nil => rfl
    | cons b bs => exact h.elim
  | cons o ops ih =>
    cases o with
    | send p =>
      cases bs with
      | nil => exact h.elim
      | cons b bs =>
        obtain ⟨_, _, _, -, -, hr⟩ := h
        simp [sendCount, ih hr]
    | wait =>
      have hw : ∃ e1 e2 mid, evs = e1 ++ e2 ∧ IsWait c.timing begun e1 mid ∧ IsLinkRun c ops bs mid e2 ended := by
        cases bs <;> exact h
      obtain ⟨_, _, _, -, -, hr⟩ := hw
      simpa [sendCount] using ih hr

/-- The bytes of a session, told apart by phase. -/
theorem exists_bytes_by_phase {links : List (List LinkOp)} {bs : List Byte} (h : bs.length = sendCount links.flatten) :
    ∃ bytes : List (List Byte), bytes.map (·.length) = links.map sendCount ∧ bytes.flatten = bs := by
  induction links generalizing bs with
  | nil => exact ⟨[], rfl, (List.length_eq_zero_iff.1 h).symm⟩
  | cons ops links ih =>
    have hsum : bs.length = sendCount ops + sendCount links.flatten := by
      rw [h, List.flatten_cons, sendCount, List.countP_append]
      rfl
    obtain ⟨bytes, hlen, hflat⟩ := ih (bs := bs.drop (sendCount ops)) (by simp [hsum])
    exact ⟨bs.take (sendCount ops) :: bytes, by simp [hlen, hsum], by simp [hflat]⟩

/-- A session begins on the path of the action it latches, with nothing erased (45_session.md R221). -/
theorem path_entered (a : Option Action) (s : State) :
    (enterMode (startSession a s)).path = .begun s.ident.desc (latchedAction a) := rfl

theorem startSession_trace (a : Option Action) (s : State) : (startSession a s).trace = s.trace := by
  simp only [startSession, putAll_trace]

/-- The start of a session adds no event, and ENTER its eight (41_power.md R141). -/
theorem newKinds_entered (a : Option Action) (s : State) : newKinds s (enterMode (startSession a s)) = enterKinds := by
  have h : ∃ evs, (enterMode (startSession a s)).trace = s.trace ++ evs ∧ evs.map (·.kind) = enterKinds := by
    simp only [enterMode, pin_trace, delay_trace, setDir_trace, startSession_trace, List.append_assoc]
    exact ⟨_, rfl, rfl⟩
  obtain ⟨evs, ht, hk⟩ := h
  rw [newKinds_append ht, hk]

theorem newKinds_exitPhase (s : State) : newKinds s (exitPhase s) = exitKinds := by
  have h : ∃ evs, (exitPhase s).trace = s.trace ++ evs ∧ evs.map (·.kind) = exitKinds := by
    simp only [exitPhase, exitMode, put_trace, pin_trace, List.append_assoc]
    exact ⟨_, rfl, rfl⟩
  obtain ⟨evs, ht, hk⟩ := h
  rw [newKinds_append ht, hk]

/-- The row that `desc` names is told by the path. -/
theorem LinkRan.knownRow {ops : List LinkOp} {p : SessionPath} (h : LinkRan ops p s t) :
    t.knownRow = p.device.bind fun k => s.cfg.desc[k]? := by
  rw [State.knownRow, h.cfg, ← h.path]
  rfl

/-- The classification names a row of `DESC` (10_state.md R30, 42_identify.md R163). -/
theorem lt_of_classifySig {table : List Descriptor} {sig : Signature} {k : DescIdx}
    (h : classifySig table sig = some k) : k < table.length :=
  (List.findIdx?_eq_some_iff_getElem.1 h).1

/-- A device that P_IDENT finds has its row (45_session.md R222). -/
theorem knownRow_identPhase (hc : configOk s.cfg = true) (h : (identPhase s).ident.desc ≠ none) :
    (identPhase s).knownRow = some (identPhase s).row := by
  have hclass : (identPhase s).ident.desc
      = classifySig (readSignature s).cfg.desc (readSignature s).ident.sig := toDevice_device _
  rw [((LinkRan.refl s).readSignature hc).cfg] at hclass
  obtain ⟨k, hk⟩ := Option.ne_none_iff_exists'.1 h
  have hrow : (identPhase s).knownRow = s.cfg.desc[k]? := by
    rw [((LinkRan.refl s).identPhase hc).knownRow, hk]
    rfl
  rw [State.row, hrow, List.getElem?_eq_getElem (lt_of_classifySig (hclass.symm.trans hk))]
  rfl

/-- The phases between ENTER and EXIT (45_session.md R222). -/
def poweredPhases (s : State) : State :=
  if (identPhase s).ident.desc = none then identPhase s
  else actPhases (identPhase s).row (readPhase (identPhase s).row (identPhase s))

theorem runSession_eq (a : Option Action) (s : State) :
    runSession a s = exitPhase (poweredPhases (enterMode (startSession a s))) := by
  unfold runSession poweredPhases
  dsimp only
  split <;> rfl

/-- What a session asks of the link between ENTER and EXIT: the links of the path it takes (45_session.md R222). -/
theorem poweredPhases_linkRan {device : Option DescIdx} {a : Action} (hc : configOk s.cfg = true)
    (hs : s.path = .begun device a) :
    ∃ erases, LinkRan (sessionLinks s.cfg (poweredPhases s).knownRow a erases).flatten
      ((SessionPath.begun (identPhase s).ident.desc a).acted erases) s (poweredPhases s) := by
  have hident : LinkRan (sends s.cfg.rdsigPairs) (.begun (identPhase s).ident.desc a) s (identPhase s) := by
    have h := (LinkRan.refl s).identPhase hc
    rwa [hs] at h
  unfold poweredPhases
  split
  · rename_i hnone
    have hrow : (identPhase s).knownRow = none := by
      rw [State.knownRow, hnone]
      rfl
    refine ⟨false, ?_⟩
    simpa [hrow, sessionLinks] using hident
  · rename_i hsome
    obtain ⟨erases, hact⟩ := (hident.readPhase hc).actPhases hc (d := (identPhase s).row)
    have hrow : (actPhases (identPhase s).row (readPhase (identPhase s).row (identPhase s))).knownRow
        = some (identPhase s).row :=
      hact.knownRow.trans (hident.knownRow.symm.trans (knownRow_identPhase hc hsome))
    refine ⟨erases, ?_⟩
    simpa [hrow, sessionLinks] using hact

/-- A whole session (45_session.md R222, R223, R227): ENTER, the requests of its path, EXIT. It has escalated only
where it erased under WriteDefaults. -/
theorem runSession_isSession (a : Option Action) (hc : configOk s.cfg = true) :
    (∃ bytes, IsSession s.cfg (sessionLinks s.cfg (runSession a s).knownRow (runSession a s).outcome.action
      (runSession a s).outcome.erased) bytes (newEvents s (runSession a s))) ∧
    ((runSession a s).outcome.escalated = true →
      (runSession a s).outcome.erased = true ∧ (runSession a s).outcome.action = .writeDefaults) := by
  have henter : Run s (enterMode (startSession a s)) := ((Lockstep.self s).startSession.enterMode).run
  have hkinds := newKinds_entered a s
  have hpath := path_entered a s
  rw [runSession_eq]
  generalize enterMode (startSession a s) = u at *
  have hcfg := cfg_of_run henter
  obtain ⟨erases, hran⟩ := poweredPhases_linkRan (hcfg ▸ hc) hpath
  generalize poweredPhases u = v at *
  have hexit : Run v (exitPhase v) := (Lockstep.self v).exitPhase.run
  have haction : (exitPhase v).outcome.action = latchedAction a := congrArg SessionPath.recordedAction hran.path
  have herased : (exitPhase v).outcome.erased = erases := congrArg SessionPath.recordedErased hran.path
  have hescalated : (exitPhase v).outcome.escalated = (erases && isEscalation (latchedAction a)) :=
    congrArg SessionPath.recordedEscalated hran.path
  rw [haction, herased, hescalated]
  constructor
  · obtain ⟨bs, hbs⟩ := hran.bytes
    obtain ⟨bytes, hlen, rfl⟩ := exists_bytes_by_phase (length_of_isLinkRun hbs)
    rw [hcfg] at hlen hbs
    have hevents : newEvents s (exitPhase v) = newEvents s u ++ newEvents u v ++ newEvents v (exitPhase v) := by
      rw [newEvents_trans (trace_of_run henter) (hran.trace.trans (trace_of_run hexit)),
        newEvents_trans hran.trace (trace_of_run hexit), List.append_assoc]
    exact ⟨bytes, _, _, _, u.now, v.now, hevents, hkinds, newKinds_exitPhase v,
      fun e he => (eventsWithin_of_run henter e he).2, fun e he => (eventsWithin_of_run hexit e he).1, hlen, hbs⟩
  · simp [isEscalation]

/-- Settles O45: a session that escalated erased under WriteDefaults, so its path is that of the default writes after an
erase; with the default `CMD` its links are these. -/
theorem escalatedSessionOfTwoFuses : Obligations.EscalatedSessionOfTwoFuses := by
  intro a s t d hcfg hp ht hesc hrow hefuse
  have hc : configOk s.cfg = true := (whenConfigured_next ht).1
  have hrun : exec (.session a) s = .next (runSession a s) := (whenConfigured_ok hc _).trans (if_pos hp)
  cases hrun.symm.trans ht
  obtain ⟨⟨bytes, hsession⟩, hpath⟩ := runSession_isSession a hc
  obtain ⟨herased, haction⟩ := hpath hesc
  rw [hrow, haction, herased] at hsession
  refine ⟨_, bytes, hsession, ?_⟩
  obtain ⟨signature, family, lfuse, hfuse, efuse⟩ := d
  cases hefuse
  rw [hcfg]
  rfl

end Sys2Proof.Machine
end

section
/-! The micro-operations PIN, DIR, DELAY, SAMPLE and POLL one by one (40_link.md R119 to R124): each one completes, does
what its rule says, and leaves everything else alone. -/

namespace Sys2Proof.Machine

/-! ## PIN, DIR and DELAY -/

theorem sameRegisters_pin (r : Role) (b : Bool) (s : State) : SameRegisters s (pin r b s) :=
  ⟨rfl, rfl, rfl, rfl, rfl, rfl, rfl, rfl, rfl, rfl, rfl⟩

theorem sameRegisters_setDir (d : Dir) (s : State) : SameRegisters s (setDir d s) :=
  ⟨rfl, rfl, rfl, rfl, rfl, rfl, rfl, rfl, rfl, rfl, rfl⟩

theorem sameRegisters_delay (p : TimeParam) (s : State) : SameRegisters s (delay p s) :=
  ⟨rfl, rfl, rfl, rfl, rfl, rfl, rfl, rfl, rfl, rfl, rfl⟩

/-- The last latch write is the last of the latch writes of a trace. -/
theorem getLast?_pinTimes (tr : List Event) : (pinTimes tr).getLast? = lastPinTime tr := by
  rw [pinTimes, lastPinTime, List.getLast?_map, List.getLast?_filter]

/-- While `T_EDGE_MIN` is not set a latch may be written at once. -/
theorem edgeTime_of_unset {s : State} (h : s.cfg.timing.edgeMin = none) : s.edgeTime = s.now := by
  simp [State.edgeTime, h]

/-- A latch is written no earlier than `T_EDGE_MIN` after the latch write before it (40_link.md R119). -/
theorem edgeMin_le_edgeTime {s : State} {d p : Nat} (hd : s.cfg.timing.edgeMin = some d)
    (hp : lastPinTime s.trace = some p) : p + d ≤ s.edgeTime := by
  simp [State.edgeTime, hd, hp]

/-- Settles O18: the latch is written at its edge time, and the drawn duration passes after that. -/
theorem pinWritesOneLatch : Obligations.PinWritesOneLatch := by
  intro r b s hc
  refine ⟨pin r b s, s.edgeTime, whenConfigured_ok hc _, ?_⟩
  rw [pin_pins]
  exact ⟨get_set_same _ b r, fun q hq => get_set_other _ b hq, rfl, now_le_edgeTime s, Nat.le_add_right _ _,
    edgeTime_of_unset, fun d hd p hp => edgeMin_le_edgeTime hd (getLast?_pinTimes _ ▸ hp), rfl, sameRegisters_pin r b s⟩

/-- Settles O19: the direction is written at once, and the drawn duration passes after that. -/
theorem dirSetsDirection : Obligations.DirSetsDirection := fun d s hc =>
  ⟨setDir d s, whenConfigured_ok hc _, rfl, rfl, Nat.le_add_right _ _, rfl, sameRegisters_setDir d s⟩

/-- A DELAY ends no earlier than its parameter asks. -/
theorem timingOf_le_delay (p : TimeParam) (s : State) : s.now + timingOf s.cfg.timing p ≤ (delay p s).now :=
  Nat.le_add_right _ _

/-- Settles O20: the parameter, one by one; `T_EDGE_MIN` counts only where it is set. -/
theorem delayWaitsAtLeast : Obligations.DelayWaitsAtLeast := by
  intro s hc p
  have hleast := timingOf_le_delay p s
  refine ⟨delay p s, whenConfigured_ok hc _, ?_, rfl, (Nat.le_add_right _ _).trans hleast, rfl, rfl,
    sameRegisters_delay p s⟩
  cases p with
  | edgeMin =>
    intro d hd
    simpa only [timingOf, hd, Option.getD_some] using hleast
  | readyTimeout | vccSettle | hvSettle | pmStable | pollMin => exact hleast

/-! ## The answer of the target -/

/-- What takes a sample runs from a valid configuration while the data-out line is an input. -/
theorem whenConfigured_whenSampling_ok {s : State} (hc : configOk s.cfg = true) (hd : s.sdoDir = .input) (r : Result) :
    whenConfigured s (whenSampling s r) = r :=
  (whenConfigured_ok hc _).trans (whenSampling_input hd _)

/-- Where the script has come to its end the oracle answers (00_scope.md R8). -/
theorem sdoLevel_of_unscripted {s : State} (h : s.env.samples = []) :
    s.sdoLevel = Config.sdoOracle s.trace s.now := by
  simp [State.sdoLevel, h]

/-- A scripted answer comes first (log 5), and what uses the script up by one answer leaves the rest. -/
theorem sdoLevel_of_scripted {s t : State} (ht : t.env.samples = s.env.samples.tail) (b : Bool) (rest : List Bool)
    (h : s.env.samples = b :: rest) : s.sdoLevel = b ∧ t.env.samples = rest := by
  simp [State.sdoLevel, ht, h]

/-- The fault of a read before a first write apart, an operation that begins by noting reads is a link operation where
the rest of it is. -/
theorem linkStep_of_noteReads {rs : List Reg} {s t : State} (h : LinkStep (noteReads rs s) t) :
    LinkStep { s with readUnwritten := t.readUnwritten } t := by
  rw [h.readUnwritten]
  exact h

/-! ## SAMPLE -/

/-- The accumulator shifted by one place, with a sample in its lowest bit (40_link.md R113). -/
theorem shiftIn_eq (acc : Frame) (b : Bool) : shiftIn acc b = (acc <<< 1) ||| (if b then 1 else 0) := by
  cases b <;> rfl

theorem sampleIn_trace (s : State) : (sampleIn s).trace = s.trace ++ [⟨s.now, .sample s.sdoLevel⟩] := by
  rw [sampleIn, put_trace, observe_trace]

theorem sampleIn_link (s : State) : (sampleIn s).link = { s.link with acc := shiftIn s.link.acc s.sdoLevel } := by
  simp [sampleIn]

theorem mem_sampleIn_unwritten {s : State} {r : Reg} : r ∈ (sampleIn s).unwritten ↔ r ∈ s.unwritten ∧ r ≠ .acc := by
  simp [sampleIn]

/-- Settles O21: the sample is taken after the read of `acc` has been noted. -/
theorem sampleShiftsIntoAccumulator : Obligations.SampleShiftsIntoAccumulator := by
  intro s hc hd
  have hstep := linkStep_sampleIn (noteReads [.acc] s)
  refine ⟨sampleIn (noteReads [.acc] s), s.sdoLevel, whenConfigured_whenSampling_ok hc hd _, sampleIn_trace _, rfl,
    sdoLevel_of_unscripted, sdoLevel_of_scripted rfl, ?_, rfl, rfl, ?_, fun r => mem_sampleIn_unwritten,
    linkStep_of_noteReads hstep⟩
  · rw [sampleIn_link, shiftIn_eq]
    rfl
  · rw [hstep.readUnwritten, noteReads_recorded_iff]
    simp

/-! ## POLL -/

/-- A POLL uses up one answer of the script, whichever way it takes. -/
theorem pollOnce_samples (s : State) : (pollOnce s).env.samples = s.env.samples.tail := by
  have hpolled : (polled s).env.samples = s.env.samples.tail := by
    rw [countOpen_env]
    split <;> rfl
  cases hl : s.sdoLevel
  · cases hd : deadlinePassed s
    · rw [pollOnce_goesOn (by simp [pollEnds, hl, hd])]
      exact hpolled
    · rw [pollOnce_deadline hl hd, put_env, hpolled]
  · rw [pollOnce_high hl, put_env]
    rfl

/-- A POLL that goes on leaves the timer as it was. -/
theorem pollOnce_wait_of_goesOn {s : State} (h : pollEnds s = false) : (pollOnce s).wait = s.wait := by
  rw [pollOnce_goesOn h]
  rfl

/-- A POLL that ends a wait by its deadline, with a start that is not in the future, ends it in time (40_link.md R115;
logs 14, 36). -/
theorem readyTimeout_le_of_deadline {s : State} (hd : deadlinePassed s = true) (hw : s.wait.wstart ≤ (observe s).now) :
    s.cfg.timing.readyTimeout ≤ (observe s).now - s.wait.wstart := by
  have ho : deadlineOpen s = false := decide_eq_false (Nat.not_lt.2 hw)
  rw [deadlinePassed, ho, if_neg Bool.false_ne_true] at hd
  exact of_decide_eq_true hd

/-- The three ways of a POLL (40_link.md R115, R124): ready by a high sample, expired by a low one at or past the
deadline, or `T_POLL_MIN` more after a low one before it. -/
theorem pollOnce_ways (s : State) :
    (s.sdoLevel = true ∧ (pollOnce s).wait.wres = .ready) ∨
      (s.sdoLevel = false ∧ (pollOnce s).wait.wres = .expired ∧
        (s.wait.wstart ≤ (pollOnce s).now → s.cfg.timing.readyTimeout ≤ (pollOnce s).now - s.wait.wstart)) ∨
      (s.sdoLevel = false ∧ (pollOnce s).wait.wres = s.wait.wres ∧
        s.now + s.cfg.timing.pollMin ≤ (pollOnce s).now ∧
        (s.wait.wstart ≤ s.now → s.now - s.wait.wstart < s.cfg.timing.readyTimeout)) := by
  cases he : pollEnds s
  · exact .inr (.inr ⟨low_of_goesOn he, by rw [pollOnce_wait_of_goesOn he], pollOnce_now_of_goesOn he,
      fun hw => now_before_deadline hw he⟩)
  · have hwres := pollOnce_wres_of_ends he
    cases hl : s.sdoLevel
    · have hd : deadlinePassed s = true := by simpa [pollEnds, hl] using he
      have hnow : (pollOnce s).now = (observe s).now := pollOnce_now_of_ends he
      exact .inr (.inl ⟨rfl, by simpa [hl] using hwres, fun hw => by
        rw [hnow] at hw ⊢
        exact readyTimeout_le_of_deadline hd hw⟩)
    · exact .inl ⟨rfl, by simpa [hl] using hwres⟩

/-- The state in which a POLL takes its sample, after its reads have been noted: it reads `wstart`, but not after a high
sample (log 8). -/
abbrev pollNoted (s : State) : State := noteReads (if s.sdoLevel then [] else [.wstart]) s

/-- A POLL records the fault where its sample is low and nothing has written `wstart` (log 8). -/
theorem pollNoted_recorded_iff {s : State} :
    (pollNoted s).readUnwritten = true ↔ s.readUnwritten = true ∨ s.sdoLevel = false ∧ Reg.wstart ∈ s.unwritten := by
  rw [noteReads_recorded_iff]
  cases s.sdoLevel <;> simp

/-- Settles O22: the three ways of a POLL, from the state in which its reads have been noted. -/
theorem pollTakesOneExitOrGoesOn : Obligations.PollTakesOneExitOrGoesOn := by
  intro s hc hd
  have hstep := linkStep_pollOnce (pollNoted s)
  refine ⟨pollOnce (pollNoted s), s.sdoLevel, whenConfigured_whenSampling_ok hc hd _, pollOnce_trace _, rfl,
    sdoLevel_of_unscripted, sdoLevel_of_scripted (pollOnce_samples _), pollOnce_ways (pollNoted s),
    pollOnce_wstart _, pollOnce_link _, pollOnce_pins _, ?_, linkStep_of_noteReads hstep⟩
  rw [hstep.readUnwritten, pollNoted_recorded_iff]

end Sys2Proof.Machine
end

section
/-! SET (40_link.md R125): what its expressions give, what the registers it names hold after it, and what it leaves
alone. -/

namespace Sys2Proof.Machine

/-! ## Expressions -/

/-- An operator of one operand whose value the spec states. -/
theorem evalExpr_un {s : State} {op : UnOp} {e : Expr} {place : List Nat} {v w : Val}
    (he : evalExpr s e (0 :: place) = v) (hw : unValue s.cfg op v = some w) : evalExpr s (.un op e) place = w := by
  rw [evalExpr, he, hw, Option.getD_some]

/-- An operator of two operands whose value the spec states. -/
theorem evalExpr_bin {s : State} {op : BinOp} {a b : Expr} {place : List Nat} {v w x : Val}
    (ha : evalExpr s a (0 :: place) = v) (hb : evalExpr s b (1 :: place) = w) (hx : binValue op v w = some x) :
    evalExpr s (.bin op a b) place = x := by
  rw [evalExpr, ha, hb, hx, Option.getD_some]

/-- The number of a frame: its byte above `PAD_TRAIL` bits, all of which fit (30_encoding.md R80). -/
theorem toNat_frameOf {c : Config} (h : configOk c = true) (b : Byte) :
    (frameOf c.widths b).toNat = b.toNat * 2 ^ c.widths.padTrail := by
  obtain ⟨-, -, -, hwidths, hlead, -⟩ := widths_of_configOk h
  have hfill : c.widths.padLead + 8 + c.widths.padTrail = 11 := hwidths
  have hb : b.toNat < 2 ^ 8 := b.isLt
  have hfit : b.toNat * 2 ^ c.widths.padTrail < 2 ^ 11 := calc
    b.toNat * 2 ^ c.widths.padTrail ≤ b.toNat * 2 ^ 2 :=
      Nat.mul_le_mul_left _ (Nat.pow_le_pow_right (by decide) (by omega))
    _ < 2 ^ 11 := by omega
  simp only [frameOf, BitVec.truncate_eq_setWidth, BitVec.toNat_shiftLeft, BitVec.toNat_setWidth, Nat.shiftLeft_eq]
  rw [Nat.mod_eq_of_lt (hb.trans (by decide)), Nat.mod_eq_of_lt hfit]

/-- The number of a signature with one byte more (42_identify.md R161). -/
theorem toNat_appendSig {c : Config} (h : configOk c = true) (sig : Signature) (b : Byte) :
    (appendSig c.widths sig b).toNat = (sig.toNat * 2 ^ 8 + b.toNat) % 2 ^ 16 := by
  obtain ⟨-, hdata, -⟩ := widths_of_configOk h
  simp [appendSig, hdata, dataBits, sigBits, Nat.shiftLeft_eq]

/-- The number of a returned byte (40_link.md R114). -/
theorem toNat_returnedByte (w : Widths) (acc : Frame) :
    (returnedByte w acc).toNat = acc.toNat / 2 ^ w.padTrail % 2 ^ 8 := by
  simp [returnedByte, dataBits, Nat.shiftRight_eq_div_pow]

/-- Settles O25: each expression from the inside out. -/
theorem expressionsOfTheRules : Obligations.ExpressionsOfTheRules := by
  rintro s place b sum shl hc rfl rfl
  have hbyte : b.toNat < 2 ^ 8 := b.isLt
  refine ⟨?frameAsShift, ?frame, ?signature, ?byte, ?locked, ?deadline⟩
  case frameAsShift =>
    refine evalExpr_un (evalExpr_un rfl (if_pos (hbyte.trans (by decide)))) ?_
    rw [toNat_frameOf hc]
    rfl
  case frame =>
    refine evalExpr_un rfl ((if_pos hbyte).trans ?_)
    rw [BitVec.ofNat_toNat, BitVec.setWidth_eq]
    rfl
  case signature =>
    rw [toNat_appendSig hc]
    exact evalExpr_un (evalExpr_bin (evalExpr_un rfl rfl) rfl rfl) rfl
  case byte =>
    rw [toNat_returnedByte]
    exact evalExpr_un (evalExpr_un rfl rfl) rfl
  case locked =>
    refine evalExpr_un (evalExpr_un rfl rfl) ?_
    simp only [isLocked, lockBit1, BitVec.getLsbD]
    cases s.link.rbyte.toNat.testBit 0 <;> rfl
  case deadline =>
    intro hw
    exact evalExpr_bin rfl (evalExpr_bin rfl rfl (if_pos hw)) rfl

/-! ## What a SET writes -/

/-- A field that may be absent takes every value that it takes where it is there. -/
theorem kindAccepts_opt {rows : Nat} {t : Ty} {v : Val} (h : kindAccepts rows t v = true) :
    kindAccepts rows (.opt t) v = true := by
  cases v with
  | absent => rfl
  | _ => exact h

/-- A free value of a kind is a value of that kind (log 34). -/
theorem kindAccepts_kindValue (rows : Nat) (t : Ty) (n : Nat) : kindAccepts rows t (kindValue rows t n) = true := by
  induction t generalizing n with
  | bits w => exact decide_eq_true (Nat.mod_lt _ (Nat.two_pow_pos w))
  | index => exact decide_eq_true (Nat.mod_lt _ (by decide))
  | nat | waitResult | action | family => rfl
  | device =>
    have hlt : n % (rows + 1) < rows + 1 := Nat.mod_lt n (Nat.succ_pos rows)
    by_cases hr : n % (rows + 1) = rows
    · rw [kindValue, if_pos hr]
      rfl
    · rw [kindValue, if_neg hr]
      exact decide_eq_true (by omega)
  | opt t ih =>
    by_cases hn : n % 2 = 0
    · rw [kindValue, if_pos hn]
      rfl
    · rw [kindValue, if_neg hn]
      exact kindAccepts_opt (ih (n / 2))

/-- What an assignment writes is a value of the register's kind (log 21). -/
theorem kindAccepts_writtenValue (s : State) (as : List Assign) (a : Assign) (j : Nat) :
    kindAccepts s.cfg.nDesc a.reg.ty (writtenValue s as a j) = true := by
  rw [writtenValue]
  split
  · next h => exact (Bool.and_eq_true_iff.1 h).1
  · exact kindAccepts_kindValue _ _ _

/-- A SET that names no register twice writes the value of an expression that its register can hold. -/
theorem writtenValue_of_kind {s : State} {as : List Assign} {a : Assign} {j : Nat} (hn : (as.map Assign.reg).Nodup)
    (ha : a ∈ as) (hk : kindAccepts s.cfg.nDesc a.reg.ty (evalExpr s a.expr [0, j]) = true) :
    writtenValue s as a j = evalExpr s a.expr [0, j] := by
  have hcount := List.count_eq_one_of_mem hn (List.mem_map_of_mem ha)
  exact if_pos (Bool.and_eq_true_iff.2 ⟨hk, beq_iff_eq.2 hcount⟩)

/-- Of several writes that name no register twice, each one is there to be read back. -/
theorem readReg_putAll_mem {s : State} {ws : List (Reg × Val)} {r : Reg} {v : Val} (hn : (ws.map (·.1)).Nodup)
    (hm : (r, v) ∈ ws) (hk : kindAccepts s.cfg.nDesc r.ty v = true) : (s.putAll ws).readReg r = v := by
  induction ws generalizing s with
  | nil => cases hm
  | cons w ws ih =>
    obtain ⟨hw, hn'⟩ := List.nodup_cons.1 hn
    rw [putAll_cons]
    rcases List.mem_cons.1 hm with rfl | hm
    · rw [readReg_putAll_other hw, readReg_put_same s hk]
    · exact ih hn' hm (by rwa [put_cfg])

/-! ## The state after a SET -/

/-- The state after a SET, whatever its expressions are (40_link.md R125). -/
abbrev afterSet (as : List Assign) (s : State) : State :=
  countOpen (setOpen s as) ((noteReads (setReads as) s).putAll (setWrites s as))

/-- A SET leaves the registers that it does not name as they were. -/
theorem readReg_afterSet_other {as : List Assign} {s : State} {r : Reg} (h : r ∉ as.map (·.reg)) :
    (afterSet as s).readReg r = s.readReg r := by
  rw [countOpen_readReg, readReg_putAll_other (by rwa [setWrites_regs]), noteReads_readReg]

/-- After a SET that names no register twice, a register it names holds what was written to it. -/
theorem readReg_afterSet_mem {as : List Assign} {s : State} {a : Assign} {j : Nat} (hn : (as.map Assign.reg).Nodup)
    (hm : (a, j) ∈ as.zipIdx) : (afterSet as s).readReg a.reg = writtenValue s as a j := by
  rw [countOpen_readReg]
  refine readReg_putAll_mem ?_ (List.mem_map_of_mem hm) (kindAccepts_writtenValue s as a j)
  rwa [setWrites_regs]

/-- After a SET, exactly the registers that it does not name stay unwritten. -/
theorem mem_afterSet_unwritten {as : List Assign} {s : State} {r : Reg} :
    r ∈ (afterSet as s).unwritten ↔ r ∈ s.unwritten ∧ r ∉ as.map (·.reg) := by
  rw [countOpen_unwritten, mem_putAll_unwritten, setWrites_regs, noteReads_unwritten]

/-- A SET takes nothing of the environment but the free values it counts (log 34). -/
theorem afterSet_env (as : List Assign) (s : State) :
    (afterSet as s).env = if setOpen s as then s.env.opened else s.env := by
  rw [countOpen_env, putAll_env, noteReads_env]

/-- A SET records the fault where one of its expressions names a register that nothing has written (log 8). -/
theorem afterSet_recorded_iff {as : List Assign} {s : State} :
    (afterSet as s).readUnwritten = true ↔
      s.readUnwritten = true ∨ ∃ a ∈ as, ∃ r ∈ exprReads a.expr, r ∈ s.unwritten := by
  rw [countOpen_readUnwritten, putAll_readUnwritten, noteReads_recorded_iff]
  simp only [setReads, List.mem_flatMap]
  refine or_congr_right ⟨?_, ?_⟩
  · rintro ⟨r, ⟨a, ha, hr⟩, hu⟩
    exact ⟨a, ha, r, hr, hu⟩
  · rintro ⟨a, ha, r, hr, hu⟩
    exact ⟨r, ⟨a, ha, hr⟩, hu⟩

/-- Settles O23: each register it names is written once, with the value of its expression or a free one of its kind. -/
theorem setWritesItsExpressions : Obligations.SetWritesItsExpressions := by
  intro as s hc hn
  refine ⟨afterSet as s, exec_set_of_configOk as hc, ?named, ?others, putAll_cfg _ _, putAll_pins _ _,
    putAll_sdoDir _ _, putAll_pc _ _, putAll_now _ _, putAll_trace _ _, ?env, ?settled, putAll_host _ _,
    putAll_issue _ _, afterSet_recorded_iff⟩
  case named =>
    intro a j hm
    have ha : a ∈ as := List.fst_mem_of_mem_zipIdx hm
    rw [readReg_afterSet_mem hn hm]
    exact ⟨fun hu => (mem_afterSet_unwritten.1 hu).2 (List.mem_map_of_mem ha), kindAccepts_writtenValue s as a j,
      writtenValue_of_kind hn ha⟩
  case others =>
    intro r hr
    exact ⟨readReg_afterSet_other hr, mem_afterSet_unwritten.trans (and_iff_left hr)⟩
  case env =>
    rw [afterSet_env]
    split <;> rfl
  case settled =>
    intro ho
    rw [afterSet_env, ho, if_neg Bool.false_ne_true]

/-- Settles O24: the state after a SET is there whatever its expressions are. -/
theorem everySetRuns : Obligations.EverySetRuns := fun as s hc =>
  ⟨afterSet as s, exec_set_of_configOk as hc, putAll_now _ _, putAll_trace _ _, fun _ => readReg_afterSet_other,
    fun _ hr hu => (mem_afterSet_unwritten.1 hu).2 hr⟩

end Sys2Proof.Machine
end

section
/-! The link (40_link.md R110 to R118, R126, R127): the samples of a transfer in its accumulator and in the byte it
returns, the outcome and the number of polls of a wait, and a whole transfer. -/

namespace Sys2Proof.Machine

/-! ## The accumulator and the returned byte -/

/-- The accumulator after one more sample: the sample below the bits there were (40_link.md R113). -/
theorem getLsbD_shiftIn (acc : Frame) (b : Bool) (k : Nat) :
    (shiftIn acc b).getLsbD k = (decide (k < frameBits) && if k = 0 then b else acc.getLsbD (k - 1)) := by
  cases k with
  | zero => cases b <;> simp [shiftIn_eq]
  | succ k => cases b <;> simp [shiftIn_eq]

/-- Bit `k` of the accumulator is the sample taken `k` samples before the last one (40_link.md R113). -/
theorem getLsbD_accOfSamples (smp : List Bool) {k : Nat} (hk : k < frameBits) :
    (accOfSamples smp).getLsbD k = smp.reverse[k]?.getD false := by
  induction smp using List.reverseRecOn generalizing k with
  | nil => simp [accOfSamples]
  | append_singleton smp b ih =>
    have hacc : accOfSamples (smp ++ [b]) = shiftIn (accOfSamples smp) b := List.foldl_concat ..
    rw [hacc, getLsbD_shiftIn, List.reverse_concat]
    cases k with
    | zero => simp
    | succ k => simpa [hk] using ih (Nat.lt_of_succ_lt hk)

/-- The returned byte is the field of the accumulator above `PAD_TRAIL` bits (40_link.md R114). -/
theorem returnedByte_eq_extractLsb' (w : Widths) (acc : Frame) :
    returnedByte w acc = acc.extractLsb' w.padTrail 8 := rfl

/-- Settles O16: bit `7 - m` of the byte is bit `7 - m + PAD_TRAIL` of the accumulator, and the pads fill the frame. -/
theorem returnedByteOfSamples : Obligations.ReturnedByteOfSamples := by
  intro c smp hc hlen m hm
  obtain ⟨-, -, -, hwidths, -, -⟩ := widths_of_configOk hc
  have hfill : c.widths.padLead + 8 + c.widths.padTrail = 11 := hwidths
  have hbit : c.widths.padTrail + (7 - m) < 11 := by omega
  have hplace : smp.length - 1 - (c.widths.padTrail + (7 - m)) = m + c.widths.padLead := by omega
  have hin : m + c.widths.padLead < smp.length := by omega
  rw [returnedByte_eq_extractLsb', BitVec.getLsbD_extractLsb', getLsbD_accOfSamples smp hbit,
    List.getElem?_reverse (hlen ▸ hbit), hplace, List.getElem?_eq_getElem hin]
  simp [show 7 - m < 8 by omega]

/-! ## The wait -/

/-- The last sample of a wait says how it ended (40_link.md R115). -/
theorem waitReady_wres {s : State} (h : s.cfg.timing.pollMin ≠ 0) :
    ∃ b, (newKinds s (waitReady s)).getLast? = some (.sample b) ∧
      (waitReady s).wait.wres = if b then .ready else .expired := by
  obtain ⟨k, -, hend, heq⟩ := waitReady_eq h
  refine ⟨(pollsFrom (waitBegun s) k).sdoLevel, ?_, ?_⟩
  · have hnew : newEvents s (waitReady s) = newEvents (waitBegun s) (pollsFrom (waitBegun s) (k + 1)) := by
      rw [heq, newEvents, newEvents, put_trace]
    rw [newKinds, hnew, newEvents_pollsFrom, List.range_succ, List.map_append, List.map_append]
    exact List.getLast?_concat
  · rw [heq, pollsFrom_succ, pollOnce_wres_of_ends hend]

/-- Settles O28: the events of a wait, whose last sample is the one `wres` tells of. -/
theorem waitReadyEndsInBound : Obligations.WaitReadyEndsInBound := by
  intro s hc hd
  have hpoll := pollMin_ne_zero hc
  obtain ⟨polls, -, hkinds, hmost, -, -, -, -, hexpired⟩ := waitReady_isWait hpoll
  obtain ⟨b, hlast, hwres⟩ := waitReady_wres hpoll
  have hb : polls.getLast? = some b := by
    rw [newKinds, hkinds, List.getLast?_map] at hlast
    obtain ⟨b', hb', he⟩ := Option.map_eq_some_iff.1 hlast
    cases he
    exact hb'
  refine ⟨waitReady s, polls, whenConfigured_whenSampling_ok hc hd _, waitReady_isWait hpoll, hkinds, hmost,
    ?_, waitReady_wstart hpoll, waitReady_link hpoll, waitReady_pins hpoll, waitReady_linkStep hpoll⟩
  cases b
  · exact .inr ⟨hb, hwres, hexpired hb⟩
  · exact .inl ⟨hb, hwres⟩

/-- A target that never gets ready, polled every 3 ns for 10 ns by samples that take no time (log 13). -/
def unevenWait : State :=
  { State.resetWith { Config.default with timing := { Timing.default with readyTimeout := 10, pollMin := 3 } } with
    env := { samples := List.replicate 5 false, delays := List.replicate 9 0, draws := 0, opens := 0 } }

/-- Low samples at 0, 3, 6, 9 and 12 ns: the one at 9 ns is still before the deadline. -/
theorem unevenWait_events : newEvents unevenWait (waitReady unevenWait) =
    [⟨0, .sample false⟩, ⟨3, .sample false⟩, ⟨6, .sample false⟩, ⟨9, .sample false⟩, ⟨12, .sample false⟩] := by
  decide

/-- Refutes O29: R115's loop takes five samples where `10 / 3 + 1` are four. -/
theorem not_waitSamplesWithinFloorBound : ¬ Obligations.WaitSamplesWithinFloorBound := by
  intro h
  have hc : configOk unevenWait.cfg = true := by decide
  have hbound := h unevenWait (waitReady unevenWait) hc (whenConfigured_whenSampling_ok hc rfl _)
  rw [newKinds, unevenWait_events] at hbound
  exact absurd hbound (by decide)

/-! ## The transfer -/

/-- Samples have no clock edge. -/
theorem clockRises_samples (polls : List Bool) : clockRises (polls.map .sample) = 0 := by
  rw [clockRises, List.length_eq_zero_iff, List.filter_eq_nil_iff]
  rintro _ hk
  obtain ⟨b, -, rfl⟩ := List.mem_map.1 hk
  simp

theorem clockRises_append (ks ls : List EventKind) : clockRises (ks ++ ls) = clockRises ks + clockRises ls := by
  simp [clockRises]

/-- The shift of a frame has one clock pulse per sample (40_link.md R113). -/
theorem clockRises_shiftKinds (w : Widths) (p : FramePair) {smp : List Bool} (h : smp.length = w.frameBits) :
    clockRises (shiftKinds w p smp) = w.frameBits := by
  simp [clockRises, shiftKinds, List.filter_flatMap, frameBitOrder, h]

/-- A transfer has one clock pulse per frame bit. -/
theorem clockRises_of_isTransfer {c : Config} {p : FramePair} {b : Byte} {begun ended : Nat} {evs : List Event}
    (h : IsTransfer c p b begun evs ended) : clockRises (evs.map (·.kind)) = c.widths.frameBits := by
  obtain ⟨wait, shift, smp, ready, rfl, ⟨polls, -, hpolls, -⟩, hlen, hshift, -⟩ := h
  rw [List.map_append, clockRises_append, hpolls, hshift, clockRises_samples, clockRises_shiftKinds _ _ hlen, zero_add]

theorem linkLinesLow_transfer {d i : Byte} {s : State} (h : configOk s.cfg = true) : linkLinesLow (transfer d i s) := by
  rw [linkLinesLow, transfer_pins h]
  exact ⟨rfl, rfl, rfl⟩

/-- Settles O30: a transfer, read off part by part. -/
theorem transferShiftsBothFrames : Obligations.TransferShiftsBothFrames := by
  intro d i s hc hd
  have htransfer := transfer_isTransfer (d := d) (i := i) hc
  obtain ⟨hdout, hiout, hbidx, hrbyte⟩ := transfer_link (d := d) (i := i) hc
  exact ⟨transfer d i s, whenConfigured_whenSampling_ok hc hd _, htransfer, hdout, hiout, hrbyte, hbidx,
    (clockRises_of_isTransfer htransfer).trans (widths_of_configOk hc).1, linkLinesLow_transfer hc,
    transfer_written hc, transfer_linkStep hc⟩

end Sys2Proof.Machine
end

section
/-! The power (41_power.md R140 to R145): ENTER and EXIT as the primitives they are made of. What a run of primitives
leaves alone and how long it takes at least is put together from the same facts about each of them. -/

namespace Sys2Proof.Machine

/-! ## What a run of PIN, DIR and DELAY leaves alone -/

namespace SameRegisters

variable {s t u : State}

theorem trans (h : SameRegisters s t) (g : SameRegisters t u) : SameRegisters s u where
  cfg := g.cfg.trans h.cfg
  link := g.link.trans h.link
  wait := g.wait.trans h.wait
  ident := g.ident.trans h.ident
  pc := g.pc.trans h.pc
  sess := g.sess.trans h.sess
  outcome := g.outcome.trans h.outcome
  unwritten := g.unwritten.trans h.unwritten
  readUnwritten := g.readUnwritten.trans h.readUnwritten
  host := g.host.trans h.host
  issue := g.issue.trans h.issue

theorem pin (h : SameRegisters s t) {r : Role} {b : Bool} : SameRegisters s (pin r b t) :=
  h.trans (sameRegisters_pin r b t)

theorem setDir (h : SameRegisters s t) {d : Dir} : SameRegisters s (setDir d t) := h.trans (sameRegisters_setDir d t)

theorem delay (h : SameRegisters s t) {p : TimeParam} : SameRegisters s (delay p t) :=
  h.trans (sameRegisters_delay p t)

end SameRegisters

theorem sameRegisters_enterMode (s : State) : SameRegisters s (enterMode s) :=
  (sameRegisters_pin .sdi false s).pin.pin.setDir.pin.pin.delay.pin.delay.setDir.delay

theorem sameRegisters_exitMode (s : State) : SameRegisters s (exitMode s) := (sameRegisters_pin .sci false s).pin.pin

/-! ## The lines -/

/-- ENTER writes every latch but that of SCI (41_power.md R141, R143). -/
theorem enterMode_pins (s : State) : (enterMode s).pins =
    { rst := false, vcc := true, sci := s.pins.sci, sii := false, sdi := false, sdoOut := false } := by
  simp [enterMode, Lines.set]

/-- EXIT writes the clock and the two supply lines (41_power.md R144). -/
theorem exitMode_pins (s : State) : (exitMode s).pins = { s.pins with sci := false, vcc := false, rst := true } := by
  simp [exitMode, Lines.set]

/-! ## The time from one event to the next -/

theorem edgeTime_le_pin_now (r : Role) (b : Bool) (s : State) : s.edgeTime ≤ (pin r b s).now := Nat.le_add_right _ _

theorem now_le_setDir_now (d : Dir) (s : State) : s.now ≤ (setDir d s).now := Nat.le_add_right _ _

/-- Of two latch writes in a row, the second is no earlier. -/
theorem edgeTime_le_pin_edgeTime (r : Role) (b : Bool) (s : State) : s.edgeTime ≤ (pin r b s).edgeTime :=
  (edgeTime_le_pin_now r b s).trans (now_le_edgeTime _)

/-- A latch write after a change of direction is no earlier than it. -/
theorem now_le_setDir_edgeTime (d : Dir) (s : State) : s.now ≤ (setDir d s).edgeTime :=
  (now_le_setDir_now d s).trans (now_le_edgeTime _)

/-- After a latch write, a delay ends no earlier than its parameter asks from the write on. -/
theorem edgeTime_le_delay_pin_now (p : TimeParam) (r : Role) (b : Bool) (s : State) :
    s.edgeTime + timingOf s.cfg.timing p ≤ (delay p (pin r b s)).now :=
  (Nat.add_le_add_right (edgeTime_le_pin_now r b s) _).trans (timingOf_le_delay p _)

/-- After a change of direction, a delay ends no earlier than its parameter asks from the change on. -/
theorem now_le_delay_setDir_now (p : TimeParam) (d : Dir) (s : State) :
    s.now + timingOf s.cfg.timing p ≤ (delay p (setDir d s)).now :=
  (Nat.add_le_add_right (now_le_setDir_now d s) _).trans (timingOf_le_delay p _)

/-! ## ENTER and EXIT -/

/-- Settles O31: the events and the times of the primitives of ENTER, one after the other. -/
theorem enterKeepsMandatedOrder : Obligations.EnterKeepsMandatedOrder := by
  intro s hc
  refine ⟨enterMode s, _, _, _, _, _, _, _, _, whenConfigured_ok hc _, ?trace, now_le_edgeTime s,
    edgeTime_le_pin_edgeTime .sdi false _, edgeTime_le_pin_edgeTime .sii false _, edgeTime_le_pin_now .sdoOut false _,
    now_le_setDir_edgeTime .output _, edgeTime_le_pin_edgeTime .rst true _,
    (edgeTime_le_delay_pin_now .vccSettle .vcc true _).trans (now_le_edgeTime _),
    edgeTime_le_delay_pin_now .hvSettle .rst false _, now_le_delay_setDir_now .pmStable .input _,
    enterMode_pins s, rfl, sameRegisters_enterMode s⟩
  case trace =>
    simp only [enterMode, pin_trace, setDir_trace, delay_trace, List.append_assoc]
    rfl

/-- Settles O32: the three latch writes of EXIT, one after the other. -/
theorem exitDropsSupplyThenHighVoltage : Obligations.ExitDropsSupplyThenHighVoltage := by
  intro s hc
  refine ⟨exitMode s, _, _, _, whenConfigured_ok hc _, ?trace, now_le_edgeTime s, edgeTime_le_pin_edgeTime .sci false _,
    edgeTime_le_pin_edgeTime .vcc false _, edgeTime_le_pin_now .rst true _, exitMode_pins s, rfl,
    sameRegisters_exitMode s⟩
  case trace =>
    simp only [exitMode, pin_trace, List.append_assoc]
    rfl

end Sys2Proof.Machine
end

section
/-! The identifier (42_identify.md R160 to R164): a signature byte is one sequence of the link; the signature is two of
them with `sig` written in between, so it is a link operation up to `sig`; and the classification is the row with an
equal signature, of which a valid `DESC` has at most one. -/

namespace Sys2Proof.Machine

/-! ## One signature byte -/

/-- A sequence with an operand has it on SDI in the second frame pair (30_encoding.md R83, R88). -/
theorem sdi_second_of_operandShape {es : List CmdEntry} (h : operandShape es = true) (pad v : Byte) :
    ((es.map (·.pair pad v))[1]?).map (·.sdi) = some v := by
  match es, h with
  | [e1, ⟨field, sii⟩, e3, e4], h =>
    simp only [operandShape, Bool.and_eq_true, beq_iff_eq] at h
    obtain ⟨⟨⟨-, rfl⟩, -⟩, -⟩ := h
    rfl

theorem linkLinesLow_transferAll {ps : List FramePair} {s : State} (h : configOk s.cfg = true) (hne : ps ≠ []) :
    linkLinesLow (transferAll ps s) := by
  rw [linkLinesLow, transferAll_pins h hne]
  exact ⟨rfl, rfl, rfl⟩

section

variable {s : State} (hc : configOk s.cfg = true) (idx : Byte)
include hc

theorem rdsbPairs_ne_nil : s.cfg.rdsbPairs idx ≠ [] :=
  List.ne_nil_of_length_pos (by rw [Laws.length_rdsbPairs hc]; decide)

theorem readSigByte_linkStep : LinkStep s (readSigByte idx s) := transferAll_linkStep hc

theorem readSigByte_linesLow : linkLinesLow (readSigByte idx s) :=
  linkLinesLow_transferAll hc (rdsbPairs_ne_nil hc idx)

theorem readSigByte_written : ∀ r ∈ linkRegs, r ∉ (readSigByte idx s).unwritten :=
  transferAll_written hc (rdsbPairs_ne_nil hc idx)

/-- Four frame pairs are sent, and the byte of the fourth is left in `rbyte` (42_identify.md R160). -/
theorem readSigByte_isLinkRun : ∃ b1 b2 b3, IsLinkRun s.cfg (sends (s.cfg.rdsbPairs idx))
    [b1, b2, b3, (readSigByte idx s).link.rbyte] s.now (newEvents s (readSigByte idx s)) (readSigByte idx s).now := by
  obtain ⟨bs, hlen, hrun, hlast⟩ := transferAll_isLinkRun (ps := s.cfg.rdsbPairs idx) hc
  rw [Laws.length_rdsbPairs hc] at hlen
  obtain ⟨b1, b2, b3, b4, rfl⟩ := List.length_eq_four.1 hlen
  have hfourth : b4 = (readSigByte idx s).link.rbyte := hlast
  exact ⟨b1, b2, b3, hfourth ▸ hrun⟩

end

/-- Settles O33: the one sequence of the link that RDSB is. -/
theorem signatureByteRead : Obligations.SignatureByteRead := by
  intro idx s hc hd
  obtain ⟨b1, b2, b3, hrun⟩ := readSigByte_isLinkRun hc idx
  exact ⟨readSigByte idx s, b1, b2, b3, _, whenConfigured_whenSampling_ok hc hd _, hrun,
    sdi_second_of_operandShape (Laws.cmd_shapes hc).1 _ _, rfl, readSigByte_linesLow hc idx,
    readSigByte_written hc idx, readSigByte_linkStep hc idx⟩

/-! ## The signature -/

/-- Two bytes added to a cleared signature: the first one is the high byte (42_identify.md R161). -/
theorem appendSig_twice {c : Config} (h : configOk c = true) (hi lo : Byte) :
    appendSig c.widths (appendSig c.widths 0 hi) lo = hi ++ lo := by
  have hhi : hi.toNat < 2 ^ 8 := hi.isLt
  have hlo : lo.toNat < 2 ^ 8 := lo.isLt
  refine BitVec.eq_of_toNat_eq ?_
  rw [toNat_appendSig h, toNat_appendSig h, BitVec.toNat_append, ← Nat.shiftLeft_add_eq_or_of_lt hlo,
    Nat.shiftLeft_eq]
  simp only [dataBits]
  omega

/-- Of two writes of `sig`, only the second is seen. -/
theorem put_sig_put_sig (s : State) (v w : Val) : (s.put .sig v).put .sig w = s.put .sig w := by
  simp [State.put, State.markWritten, State.store]

/-- What is a link operation stays one if `sig` is set to one value before and after it. -/
theorem LinkStep.put_sig {s t : State} (h : LinkStep s t) (v : Val) : LinkStep (s.put .sig v) (t.put .sig v) where
  cfg := by simpa using h.cfg
  sdoDir := by simpa using h.sdoDir
  rst := by simpa using h.rst
  vcc := by simpa using h.vcc
  sdoOut := by simpa using h.sdoOut
  ident := by simp [h.ident]
  pc := by simpa using h.pc
  sess := by simpa using h.sess
  outcome := by simpa using h.outcome
  host := by simpa using h.host
  issue := by simpa using h.issue
  now := by simpa using h.now
  trace := by simpa using h.trace
  unwritten := fun r hr => by simp [h.unwritten r hr]
  unwrittenShrinks := fun r hr => by
    simp only [put_unwritten, List.mem_filter] at hr ⊢
    exact ⟨h.unwrittenShrinks r hr.1, hr.2⟩
  readUnwritten := by simpa using h.readUnwritten

/-- One index of RDSIG: its byte is read and added to the signature (42_identify.md R160, R161). -/
def addSigByte (idx : Byte) (s : State) : State := accumulateSig (readSigByte idx s)

section

variable {s : State} (hc : configOk s.cfg = true) (idx : Byte)
include hc

/-- Whatever `sig` is set to, one index is a link operation but for it. -/
theorem addSigByte_linkStep (v : Val) : LinkStep (s.put .sig v) ((addSigByte idx s).put .sig v) := by
  rw [addSigByte, accumulateSig, put_sig_put_sig]
  exact (readSigByte_linkStep hc idx).put_sig v

theorem addSigByte_cfg : (addSigByte idx s).cfg = s.cfg := by
  rw [addSigByte, accumulateSig, put_cfg, (readSigByte_linkStep hc idx).cfg]

theorem addSigByte_trace : s.trace <+: (addSigByte idx s).trace := by
  rw [addSigByte, accumulateSig, put_trace]
  exact (readSigByte_linkStep hc idx).trace

theorem addSigByte_sig :
    (addSigByte idx s).ident.sig = appendSig s.cfg.widths s.ident.sig (addSigByte idx s).link.rbyte := by
  have hread := readSigByte_linkStep hc idx
  simp [addSigByte, accumulateSig, hread.cfg, hread.ident]

theorem addSigByte_linesLow : linkLinesLow (addSigByte idx s) := by
  rw [linkLinesLow, addSigByte, accumulateSig, put_pins]
  exact readSigByte_linesLow hc idx

theorem addSigByte_written : ∀ r ∈ Reg.sig :: linkRegs, r ∉ (addSigByte idx s).unwritten := by
  intro r hr hu
  rw [addSigByte, accumulateSig, put_unwritten, List.mem_filter, decide_eq_true_eq] at hu
  obtain rfl | hlink := List.mem_cons.1 hr
  · exact hu.2 rfl
  · exact readSigByte_written hc idx r hlink hu.1

/-- The addition takes no time, so what one index sends is what its byte takes. -/
theorem addSigByte_isLinkRun : ∃ b1 b2 b3, IsLinkRun s.cfg (sends (s.cfg.rdsbPairs idx))
    [b1, b2, b3, (addSigByte idx s).link.rbyte] s.now (newEvents s (addSigByte idx s)) (addSigByte idx s).now := by
  rw [addSigByte, accumulateSig, put_sig_link, newEvents, put_trace, put_now]
  exact readSigByte_isLinkRun hc idx

end

/-- RDSIG once `sig` is cleared and the byte of the first index added to it (42_identify.md R162). -/
def firstSigByte (s : State) : State := addSigByte s.cfg.sigIndices.first (s.put .sig (.num 0))

/-- RDSIG is the byte of the second index added after that of the first (42_identify.md R162). -/
theorem readSignature_eq (s : State) : readSignature s = addSigByte s.cfg.sigIndices.second (firstSigByte s) := rfl

section

variable {s : State} (hc : configOk s.cfg = true)
include hc

theorem cleared_configOk : configOk (s.put .sig (.num 0)).cfg = true := by rwa [put_cfg]

theorem firstSigByte_cfg : (firstSigByte s).cfg = s.cfg := by
  rw [firstSigByte, addSigByte_cfg (cleared_configOk hc), put_cfg]

theorem firstSigByte_configOk : configOk (firstSigByte s).cfg = true := by rwa [firstSigByte_cfg hc]

/-- RDSIG is a link operation but for `sig`, whatever that is set to. -/
theorem readSignature_linkStep (v : Val) : LinkStep (s.put .sig v) ((readSignature s).put .sig v) := by
  have hfirst : LinkStep (s.put .sig v) ((firstSigByte s).put .sig v) := by
    simpa only [put_sig_put_sig, firstSigByte] using addSigByte_linkStep (cleared_configOk hc) s.cfg.sigIndices.first v
  exact hfirst.trans (addSigByte_linkStep (firstSigByte_configOk hc) s.cfg.sigIndices.second v)

theorem readSignature_linesLow : linkLinesLow (readSignature s) :=
  addSigByte_linesLow (firstSigByte_configOk hc) s.cfg.sigIndices.second

theorem readSignature_written : ∀ r ∈ Reg.sig :: linkRegs, r ∉ (readSignature s).unwritten :=
  addSigByte_written (firstSigByte_configOk hc) s.cfg.sigIndices.second

/-- The high byte is the one returned for the first index, the low byte the one for the second. -/
theorem readSignature_sig :
    (readSignature s).ident.sig = (firstSigByte s).link.rbyte ++ (readSignature s).link.rbyte := by
  have hfirst : (firstSigByte s).ident.sig = appendSig s.cfg.widths 0 (firstSigByte s).link.rbyte := by
    rw [firstSigByte, addSigByte_sig (cleared_configOk hc), put_cfg]
    rfl
  rw [readSignature_eq, addSigByte_sig (firstSigByte_configOk hc), hfirst, firstSigByte_cfg hc]
  exact appendSig_twice hc _ _

/-- The four frame pairs of the first index, then the four of the second (42_identify.md R162). -/
theorem readSignature_isLinkRun : ∃ b1 b2 b3 b5 b6 b7, IsLinkRun s.cfg
    (sends (s.cfg.rdsbPairs s.cfg.sigIndices.first ++ s.cfg.rdsbPairs s.cfg.sigIndices.second))
    [b1, b2, b3, (firstSigByte s).link.rbyte, b5, b6, b7, (readSignature s).link.rbyte] s.now
    (newEvents s (readSignature s)) (readSignature s).now := by
  obtain ⟨b1, b2, b3, hrun1⟩ := addSigByte_isLinkRun (cleared_configOk hc) s.cfg.sigIndices.first
  obtain ⟨b5, b6, b7, hrun2⟩ := addSigByte_isLinkRun (firstSigByte_configOk hc) s.cfg.sigIndices.second
  rw [put_cfg, put_now] at hrun1
  rw [firstSigByte_cfg hc] at hrun2
  have hrun := isLinkRun_append hrun1 hrun2
  have hevents : newEvents s (readSignature s)
      = newEvents (s.put .sig (.num 0)) (firstSigByte s) ++ newEvents (firstSigByte s) (readSignature s) :=
    newEvents_trans (s := s.put .sig (.num 0)) (addSigByte_trace (cleared_configOk hc) _)
      (addSigByte_trace (firstSigByte_configOk hc) _)
  rw [hevents, sends, List.map_append]
  exact ⟨b1, b2, b3, b5, b6, b7, hrun⟩

end

/-- Settles O34: what RDSIG sends and returns, and the frame of a link operation with `sig` taken out of it. -/
theorem signatureIsHighThenLow : Obligations.SignatureIsHighThenLow := by
  intro s hc hd
  obtain ⟨b1, b2, b3, b5, b6, b7, hrun⟩ := readSignature_isLinkRun hc
  have hstep := readSignature_linkStep hc (.num 0)
  have hdesc : (readSignature s).ident.desc = s.ident.desc := by simpa using hstep.ident
  refine ⟨readSignature s, b1, b2, b3, _, b5, b6, b7, _, whenConfigured_whenSampling_ok hc hd _, hrun,
    readSignature_sig hc, hdesc, rfl, readSignature_linesLow hc, readSignature_written hc, ?others,
    by simpa using hstep.readUnwritten, by simpa using hstep.cfg, by simpa using hstep.sdoDir,
    by simpa using hstep.rst, by simpa using hstep.vcc, by simpa using hstep.sdoOut, by simpa using hstep.pc,
    by simpa using hstep.sess, by simpa using hstep.outcome, by simpa using hstep.host, by simpa using hstep.issue,
    by simpa using hstep.now, by simpa using hstep.trace⟩
  case others =>
    intro r hr
    rw [List.mem_cons, not_or] at hr
    simpa [hr.1] using hstep.unwritten r hr.2

/-! ## The classification -/

/-- The classification is unknown where no row matches on all 16 bits (42_identify.md R163). -/
theorem classifySig_eq_none_iff {table : List Descriptor} {sig : Signature} :
    classifySig table sig = none ↔ ∀ d ∈ table, d.signature ≠ sig := by
  simp [classifySig, List.findIdx?_eq_none_iff]

theorem signatures_nodup_of_configOk {c : Config} (h : configOk c = true) : (c.desc.map (·.signature)).Nodup := by
  simp only [configOk, descOk, Bool.and_eq_true, decide_eq_true_eq] at h
  obtain ⟨⟨⟨⟨-, hnodup, -⟩, -⟩, -⟩, -⟩ := h
  exact hnodup

/-- The signatures of a valid `DESC` are distinct, so the first row that matches is the only one (10_state.md R41,
42_identify.md R163). -/
theorem classifySig_eq_some_iff {c : Config} (h : configOk c = true) {sig : Signature} {k : DescIdx} :
    classifySig c.desc sig = some k ↔ ∃ d, c.desc[k]? = some d ∧ d.signature = sig := by
  have hnodup := signatures_nodup_of_configOk h
  simp only [classifySig, List.findIdx?_eq_some_iff_getElem, decide_eq_true_eq]
  constructor
  · rintro ⟨hk, hmatch, -⟩
    exact ⟨_, List.getElem?_eq_getElem hk, hmatch⟩
  · rintro ⟨d, hd, hmatch⟩
    obtain ⟨hk, rfl⟩ := List.getElem?_eq_some_iff.1 hd
    refine ⟨hk, hmatch, fun j hj heq => ?_⟩
    have hsame : (c.desc.map (·.signature))[j]'(by simp; omega) = (c.desc.map (·.signature))[k]'(by simpa) := by
      simp [heq, hmatch]
    exact hj.ne (hnodup.getElem_inj_iff.1 hsame)

/-- A classification writes `desc` and nothing else. -/
theorem classify_eq (sig : Signature) (s : State) : classify sig s =
    { s with ident := { s.ident with desc := classifySig s.cfg.desc sig }
             unwritten := s.unwritten.filter fun r => r ≠ .desc } := by
  simp [classify, State.put, State.markWritten, State.store]

/-- The register CLASSIFY reads: `sig`, where it has no operand (30_encoding.md R97; log 19). -/
def classifyReads : Option Signature → List Reg
  | none => [.sig]
  | some _ => []

/-- Both forms of CLASSIFY, the operand or else `sig` classified. -/
theorem exec_classify_of_configOk (v : Option Signature) {s : State} (hc : configOk s.cfg = true) :
    exec (.classify v) s = .next (classify (v.getD s.ident.sig) (noteReads (classifyReads v) s)) := by
  refine (whenConfigured_ok hc _).trans ?_
  cases v with
  | none => rfl
  | some v =>
    rw [classifyReads, noteReads_nil]
    rfl

theorem exists_unwritten_classifyReads {v : Option Signature} {u : List Reg} :
    (∃ r ∈ classifyReads v, r ∈ u) ↔ v = none ∧ Reg.sig ∈ u := by
  cases v <;> simp [classifyReads]

/-- Settles O35: the row of the operand or of `sig`, after the read of `sig` has been noted. -/
theorem classifyFindsExactMatch : Obligations.ClassifyFindsExactMatch := by
  intro v s hc
  refine ⟨_, exec_classify_of_configOk v hc, ?_⟩
  rw [classify_eq]
  refine ⟨fun _ => classifySig_eq_some_iff hc, classifySig_eq_none_iff, by simp, rfl, ?recorded,
    fun r hr => by simp [hr]⟩
  case recorded => exact noteReads_recorded_iff.trans (or_congr_right exists_unwritten_classifyReads)

end Sys2Proof.Machine
end

section
/-! The fuses and the lock byte (43_fuse_lock.md R180 to R188): each operation is one sequence of the link, of `CMD` for
the reads and of `CMD` and `FUSE_ADDR` for the writes; RDLK waits once more after it. -/

namespace Sys2Proof.Machine

/-! ## A sequence of the link, alone and with a wait after it -/

section

variable {s : State} {ps : List FramePair} (hc : configOk s.cfg = true)
include hc

/-- The lines, the link registers and the frame of a sequence that is not empty (40_link.md R126, R127). -/
theorem transferAll_frame (hne : ps ≠ []) :
    linkLinesLow (transferAll ps s) ∧ (∀ r ∈ linkRegs, r ∉ (transferAll ps s).unwritten) ∧
      LinkStep s (transferAll ps s) :=
  ⟨linkLinesLow_transferAll hc hne, transferAll_written hc hne, transferAll_linkStep hc⟩

/-- Of three frame pairs, the byte of the third is left in `rbyte`. -/
theorem transferAll_isLinkRun_three (hlen : ps.length = 3) :
    ∃ b1 b2, IsLinkRun s.cfg (sends ps) [b1, b2, (transferAll ps s).link.rbyte] s.now
      (newEvents s (transferAll ps s)) (transferAll ps s).now := by
  obtain ⟨bs, hbs, hrun, hlast⟩ := transferAll_isLinkRun (ps := ps) hc
  obtain ⟨b1, b2, b3, rfl⟩ := List.length_eq_three.1 (hbs.trans hlen)
  have hthird : b3 = (transferAll ps s).link.rbyte := hlast
  exact ⟨b1, b2, hthird ▸ hrun⟩

/-- A wait samples only: the lines stay, and no register gets unwritten again (40_link.md R115). -/
theorem waitReady_frame {t : State} (h : linkLinesLow t ∧ (∀ r ∈ linkRegs, r ∉ t.unwritten) ∧ LinkStep s t) :
    linkLinesLow (waitReady t) ∧ (∀ r ∈ linkRegs, r ∉ (waitReady t).unwritten) ∧ LinkStep s (waitReady t) := by
  obtain ⟨hlow, hwritten, hstep⟩ := h
  have hpoll : t.cfg.timing.pollMin ≠ 0 := pollMin_ne_zero (hstep.cfg ▸ hc)
  have hwait := waitReady_linkStep hpoll
  refine ⟨?lines, fun r hr hu => hwritten r hr (hwait.unwrittenShrinks r hu), hstep.trans hwait⟩
  case lines => rwa [linkLinesLow, waitReady_pins hpoll]

/-- A wait after a run of the link is one more request, which returns no byte (40_link.md R117). -/
theorem isLinkRun_waitReady {ops : List LinkOp} {bs : List Byte} {t : State} (hstep : LinkStep s t)
    (hrun : IsLinkRun s.cfg ops bs s.now (newEvents s t) t.now) :
    IsLinkRun s.cfg (ops ++ [.wait]) bs s.now (newEvents s (waitReady t)) (waitReady t).now := by
  have hpoll : t.cfg.timing.pollMin ≠ 0 := pollMin_ne_zero (hstep.cfg ▸ hc)
  have hwait : IsLinkRun s.cfg [.wait] [] t.now (newEvents t (waitReady t)) (waitReady t).now :=
    ⟨_, [], _, (List.append_nil _).symm, hstep.cfg ▸ waitReady_isWait hpoll, rfl, rfl⟩
  rw [newEvents_trans hstep.trace (waitReady_linkStep hpoll).trace]
  simpa using isLinkRun_append hrun hwait

end

/-! ## The reads -/

/-- Settles O36: a fuse read is the sequence of three frame pairs of its selector. -/
theorem fuseReadsReturnThirdByte : Obligations.FuseReadsReturnThirdByte := by
  intro s hc hd op hop
  obtain ⟨x, hexec, hcmd⟩ : ∃ x, exec op.1 s = .next (readFuse x s) ∧ op.2 = s.cfg.cmd.read x := by
    simp only [List.mem_cons, List.not_mem_nil, or_false] at hop
    rcases hop with rfl | rfl | rfl
    · exact ⟨.low, whenConfigured_whenSampling_ok hc hd _, rfl⟩
    · exact ⟨.high, whenConfigured_whenSampling_ok hc hd _, rfl⟩
    · exact ⟨.ext, whenConfigured_whenSampling_ok hc hd _, rfl⟩
  have hlen := Laws.length_readPairs hc x
  obtain ⟨b1, b2, hrun⟩ := transferAll_isLinkRun_three hc hlen
  rw [hcmd]
  exact ⟨readFuse x s, b1, b2, _, hexec, hrun, rfl, transferAll_frame hc (List.ne_nil_of_length_eq_add_one hlen)⟩

/-- Settles O37: the sequence of RDLK, then a wait, which leaves the byte returned in `rbyte`. -/
theorem lockReadWaitsOnceMore : Obligations.LockReadWaitsOnceMore := by
  intro s hc hd
  have hlen := Laws.length_lockPairs hc
  have hstep := transferAll_linkStep (ps := s.cfg.lockPairs) hc
  obtain ⟨b1, b2, hrun⟩ := transferAll_isLinkRun_three hc hlen
  have hraw : (readLock s).link = (transferAll s.cfg.lockPairs s).link :=
    waitReady_link (pollMin_ne_zero (by rwa [hstep.cfg]))
  exact ⟨readLock s, b1, b2, _, whenConfigured_whenSampling_ok hc hd _, isLinkRun_waitReady hc hstep hrun,
    congrArg Link.rbyte hraw,
    waitReady_frame hc (transferAll_frame hc (List.ne_nil_of_length_eq_add_one hlen))⟩

/-! ## The writes -/

/-- The operand of a sequence is on SDI in the second of its first two frame pairs (30_encoding.md R83, R88). -/
theorem take_two_of_operandShape {es : List CmdEntry} (h : operandShape es = true) (pad v : Byte) :
    ∃ p1 p2, (es.map (·.pair pad v)).take 2 = [p1, p2] ∧ p2.sdi = v := by
  have hsecond := sdi_second_of_operandShape h pad v
  match es, Laws.length_of_operandShape h with
  | [e1, e2, _, _], _ => exact ⟨e1.pair pad v, e2.pair pad v, rfl, Option.some.inj hsecond⟩

/-- A fuse write sends the first two frame pairs of `CMD[WR.x]`, then those of its Fuse Address (43_fuse_lock.md
R185). -/
theorem writePairs_eq_take_append (c : Config) (x : FuseSel) (v : Byte) :
    c.writePairs x v = ((c.cmd.write x).map (·.pair c.padData v)).take 2 ++
      [⟨c.padData, (c.fuseAddr.get x).extractLsb' 8 8⟩, ⟨c.padData, (c.fuseAddr.get x).extractLsb' 0 8⟩] := by
  rw [Config.writePairs, Config.writeEntries, List.map_append, List.map_take]
  rfl

/-- Settles O39: a fuse write is the sequence of the value and of the address of its selector. -/
theorem fuseWritesSendValueAndAddress : Obligations.FuseWritesSendValueAndAddress := by
  intro v s hc hd op hop
  obtain ⟨x, hexec, hcmd, haddr⟩ : ∃ x, exec op.1 s = .next (writeFuse x v s) ∧ op.2.1 = s.cfg.cmd.write x ∧
      op.2.2 = s.cfg.fuseAddr.get x := by
    simp only [List.mem_cons, List.not_mem_nil, or_false] at hop
    rcases hop with rfl | rfl | rfl
    · exact ⟨.low, whenConfigured_whenSampling_ok hc hd _, rfl, rfl⟩
    · exact ⟨.high, whenConfigured_whenSampling_ok hc hd _, rfl, rfl⟩
    · exact ⟨.ext, whenConfigured_whenSampling_ok hc hd _, rfl, rfl⟩
  obtain ⟨-, -, -, hshape, -⟩ := Laws.cmd_shapes hc
  obtain ⟨p1, p2, htwo, hvalue⟩ := take_two_of_operandShape (hshape x) s.cfg.padData v
  have hpairs : s.cfg.writePairs x v = [p1, p2, ⟨s.cfg.padData, (s.cfg.fuseAddr.get x).extractLsb' 8 8⟩,
      ⟨s.cfg.padData, (s.cfg.fuseAddr.get x).extractLsb' 0 8⟩] := by
    rw [writePairs_eq_take_append, htwo]
    rfl
  obtain ⟨bs, -, hrun, -⟩ := transferAll_isLinkRun (ps := s.cfg.writePairs x v) hc
  have hne : s.cfg.writePairs x v ≠ [] := by simp [hpairs]
  rw [hcmd, haddr]
  exact ⟨writeFuse x v s, p1, p2, bs, hexec, htwo, hvalue, hpairs ▸ hrun, transferAll_frame hc hne⟩

end Sys2Proof.Machine
end

section
/-! The Chip Eraser (44_erase.md R210): one sequence of the link, then the completion wait, whose outcome nothing
reads. -/

namespace Sys2Proof.Machine

/-- Settles O40: the three frame pairs of `CMD[ERASE]`, a byte returned for each, then the completion wait. -/
theorem eraseSendsThreePairsAndWaits : Obligations.EraseSendsThreePairsAndWaits := by
  intro s hc hd
  have hlen := Laws.length_erasePairs hc
  have hexec : exec .erase s = .next (eraseChip s) := whenConfigured_whenSampling_ok hc hd _
  obtain ⟨bs, hbs, hrun, -⟩ := transferAll_isLinkRun (ps := s.cfg.erasePairs) hc
  have hframe := transferAll_frame hc (List.ne_nil_of_length_eq_add_one hlen)
  exact ⟨eraseChip s, bs, hexec, hbs.trans hlen, isLinkRun_waitReady hc (transferAll_linkStep hc) hrun,
    waitReady_frame hc hframe⟩

end Sys2Proof.Machine
end

section
/-! How a session begins, and how it goes from phase to phase (45_session.md R220, R221, R223, R227). -/

namespace Sys2Proof.Machine

/-! ## The start -/

/-- In IDLE, SESSION runs the whole session (45_session.md R222; log 22). -/
theorem exec_session_of_idle {s : State} (a : Option Action) (hc : configOk s.cfg = true) (hp : s.pc.phase = .idle) :
    exec (.session a) s = .next (runSession a s) :=
  (whenConfigured_ok hc _).trans (if_pos hp)

/-- A pending trigger in IDLE starts a session (45_session.md R220). -/
theorem step_of_trigger {s : State} (hc : configOk s.cfg = true) (hp : s.pc.phase = .idle)
    (ht : s.host.trigger = true) : step s = .next (beginSession (dropTrigger s)) := by
  rw [step_of_idle hc hp, ht]
  rfl

/-- Settles O46: SESSION tests the phase, and a step drops the trigger before its phase sees it. -/
theorem sessionIgnoredOutsideIdle : Obligations.SessionIgnoredOutsideIdle := by
  intro a s hc hp
  have htriggered : step (hostTrigger s) = stepPhase s.pc.phase (dropTrigger s) := step_of_phase (s := hostTrigger s) hc hp
  exact ⟨(whenConfigured_ok hc _).trans (if_neg hp), htriggered.trans (step_of_phase hc hp).symm⟩

/-- The registers that the start of a session leaves unwritten where nothing has written them (45_session.md R221). -/
theorem mem_startSession_unwritten {a : Option Action} {s : State} {r : Reg} :
    r ∈ (startSession a s).unwritten ↔
      r ∈ s.unwritten ∧ r ∈ [Reg.dout, .iout, .acc, .bidx, .rbyte, .wstart, .wres, .sig, .desc] := by
  simp only [startSession, mem_putAll_unwritten, optionalFields, List.map_cons, List.map_nil, and_assoc]
  refine and_congr_right fun _ => ?_
  cases r <;> decide

theorem startSession_cfg (a : Option Action) (s : State) : (startSession a s).cfg = s.cfg := by
  simp only [startSession, putAll_cfg]
theorem startSession_pins (a : Option Action) (s : State) : (startSession a s).pins = s.pins := by
  simp only [startSession, putAll_pins]
theorem startSession_sdoDir (a : Option Action) (s : State) : (startSession a s).sdoDir = s.sdoDir := by
  simp only [startSession, putAll_sdoDir]
theorem startSession_now (a : Option Action) (s : State) : (startSession a s).now = s.now := by
  simp only [startSession, putAll_now]
theorem startSession_env (a : Option Action) (s : State) : (startSession a s).env = s.env := by
  simp only [startSession, putAll_env]
theorem startSession_host (a : Option Action) (s : State) : (startSession a s).host = s.host := by
  simp only [startSession, putAll_host]
theorem startSession_issue (a : Option Action) (s : State) : (startSession a s).issue = s.issue := by
  simp only [startSession, putAll_issue]
theorem startSession_readUnwritten (a : Option Action) (s : State) :
    (startSession a s).readUnwritten = s.readUnwritten := by
  simp only [startSession, putAll_readUnwritten]
theorem startSession_link (a : Option Action) (s : State) : (startSession a s).link = s.link := by
  simp [startSession, optionalFields]
theorem startSession_wait (a : Option Action) (s : State) : (startSession a s).wait = s.wait := by
  simp [startSession, optionalFields]
theorem startSession_ident (a : Option Action) (s : State) : (startSession a s).ident = s.ident := by
  simp [startSession, optionalFields]

/-- The flags after the start of a session (45_session.md R221). -/
theorem startSession_sess (a : Option Action) (s : State) : (startSession a s).sess =
    { action := latchedAction a, locked0 := false, erased := false, escalated := false, wrote := false } := by
  simp [startSession, optionalFields]

/-- The outcome after the start of a session: the action, and nothing else yet (45_session.md R221). -/
theorem startSession_outcome (a : Option Action) (s : State) :
    (startSession a s).outcome = { SessionOutcome.blank with action := latchedAction a } := by
  simp [startSession, optionalFields, SessionOutcome.blank]

/-- Settles O47: the step is the start of a session, which writes the flags and the outcome. -/
theorem triggerStartsSession : Obligations.TriggerStartsSession := by
  intro s hc hp ht
  have hstep := step_of_trigger hc hp ht
  obtain ⟨u, hu⟩ : ∃ u, u = startSession s.host.action (dropTrigger s) := ⟨_, rfl⟩
  have hbegun : beginSession (dropTrigger s) = { u with pc := { phase := .pEnter, upc := 0 } } := hu ▸ rfl
  rw [hbegun] at hstep
  refine ⟨_, hstep, rfl, ?_⟩
  dsimp only
  rw [hu]
  exact ⟨startSession_sess _ _, startSession_outcome _ _,
    startSession_cfg _ _, startSession_pins _ _, startSession_sdoDir _ _, startSession_link _ _,
    startSession_wait _ _, startSession_ident _ _, startSession_now _ _, startSession_trace _ _, startSession_env _ _,
    startSession_issue _ _, startSession_readUnwritten _ _, fun _ => mem_startSession_unwritten,
    startSession_host _ _⟩

/-! ## From phase to phase -/

/-- At the end of its list a phase takes its exit transition (45_session.md R223). -/
theorem stepPhase_of_end {p : Phase} {s : State} (h : (uprog p s).length ≤ s.pc.upc) :
    stepPhase p s = .next (leavePhase p (noteReads (phaseReads p ++ exitReads p) s)) := by
  simp only [stepPhase, List.getElem?_eq_none h]

/-- Settles O48: the exit transition, phase by phase. -/
theorem phaseGraph : Obligations.PhaseGraph := by
  intro s hc hp hend
  refine ⟨leavePhase s.pc.phase (noteReads (phaseReads s.pc.phase ++ exitReads s.pc.phase) (dropTrigger s)),
    (step_of_phase hc hp).trans (stepPhase_of_end (s := dropTrigger s) hend), rfl, rfl, ?recorded, ?next⟩
  case recorded =>
    refine noteReads_recorded_iff.trans (or_congr_right ?_)
    cases s.pc.phase <;> simp [phaseReads, exitReads]
  case next =>
    cases h : s.pc.phase with
    | idle => exact hp h
    | pRead => by_cases he : s.sess.action = .erase <;> simp [nextPhase, he]
    | pEnter | pIdent | pUnknown | pErase | pWrite | pVerify | pExit => rfl

end Sys2Proof.Machine
end

section
/-! What one micro-operation does (40_link.md R120 to R125): whether it runs, and what it does to the lines, the
direction and the registers that are still unwritten, told as `linesAfter`, `dirAfter` and `unwrittenAfter` tell it of a
list. -/

namespace Sys2Proof.Machine

/-! ## Lists of micro-operations -/

theorem linesAfter_append (l : Lines) (a b : List Instr) : linesAfter l (a ++ b) = linesAfter (linesAfter l a) b :=
  List.foldl_append

theorem dirAfter_append (d : Dir) (a b : List Instr) : dirAfter d (a ++ b) = dirAfter (dirAfter d a) b :=
  List.foldl_append

theorem unwrittenAfter_append (u : List Reg) (a b : List Instr) :
    unwrittenAfter u (a ++ b) = unwrittenAfter (unwrittenAfter u a) b :=
  List.foldl_append

/-- After some micro-operations, exactly the registers that none of them writes stay unwritten. -/
theorem mem_unwrittenAfter {u : List Reg} {ops : List Instr} {r : Reg} :
    r ∈ unwrittenAfter u ops ↔ r ∈ u ∧ ∀ i ∈ ops, r ∉ microWrites i := by
  induction ops generalizing u with
  | nil => simp [unwrittenAfter]
  | cons i ops ih =>
    have hcons : unwrittenAfter u (i :: ops) = unwrittenAfter (u.filter fun r => r ∉ microWrites i) ops := rfl
    rw [hcons, ih, List.mem_filter, List.forall_mem_cons, decide_eq_true_eq, and_assoc]

theorem unwrittenAfter_mono {u v : List Reg} (h : u ⊆ v) (ops : List Instr) :
    unwrittenAfter u ops ⊆ unwrittenAfter v ops := fun _ hr =>
  mem_unwrittenAfter.2 ((mem_unwrittenAfter.1 hr).imp_left (@h _))

/-! ## One micro-operation -/

/-- The micro-operations (40_link.md R120 to R125). -/
def isMicro : Instr → Bool
  | .pin _ _ | .dir _ | .delay _ | .sample | .poll | .set _ => true
  | .xfer _ _ | .waitrdy | .enter | .exit | .rdsb _ | .rdsig | .classify _ | .rdfL | .rdfH | .rdfE | .rdlk
  | .wrfL _ | .wrfH _ | .wrfE _ | .erase | .session _ => false

theorem isMicro_of_spares {q : Reg} {i : Instr} (h : spares q i = true) : isMicro i = true := by
  cases i <;> first | rfl | cases h

/-- The registers a micro-operation may read (40_link.md R123 to R125; log 8). -/
def microReads : Instr → List Reg
  | .set as => setReads as
  | .sample => [.acc]
  | .poll => [.wstart]
  | _ => []

/-- What a micro-operation does to everything but the values of the registers, the time and the trace. -/
structure MicroEffect (i : Instr) (s t : State) : Prop where
  cfg : t.cfg = s.cfg
  pc : t.pc = s.pc
  host : t.host = s.host
  issue : t.issue = s.issue
  pins : t.pins = linesAfter s.pins [i]
  sdoDir : t.sdoDir = dirAfter s.sdoDir [i]
  unwritten : t.unwritten ⊆ unwrittenAfter s.unwritten [i]
  recorded : (∀ r ∈ microReads i, r ∉ s.unwritten) → t.readUnwritten = s.readUnwritten

/-- A link operation that writes no latch, after some reads have been noted. -/
theorem microEffect_of_linkStep {i : Instr} {rs : List Reg} {s t : State} (h : LinkStep (noteReads rs s) t)
    (hp : t.pins = s.pins) (hpins : ∀ l, linesAfter l [i] = l) (hdir : ∀ d, dirAfter d [i] = d)
    (hu : ∀ r ∈ t.unwritten, r ∉ microWrites i) (hrs : rs ⊆ microReads i) : MicroEffect i s t where
  cfg := h.cfg
  pc := h.pc
  host := h.host
  issue := h.issue
  pins := hp.trans (hpins _).symm
  sdoDir := h.sdoDir.trans (hdir _).symm
  unwritten := fun r hr => mem_unwrittenAfter.2 ⟨h.unwrittenShrinks r hr, by simpa using hu r hr⟩
  recorded := fun hw => by
    rw [h.readUnwritten, noteReads_of_written fun r hr => hw r (hrs hr)]

/-- What a micro-operation does when it runs. -/
theorem microEffect_of_exec {i : Instr} {s t : State} (hi : isMicro i = true) (h : exec i s = .next t) :
    MicroEffect i s t := by
  have hwrites (u : List Reg) (hnone : microWrites i = []) : u ⊆ unwrittenAfter u [i] := fun r hr =>
    mem_unwrittenAfter.2 ⟨hr, by simp [hnone]⟩
  cases i with
  | pin r b =>
    obtain ⟨-, rfl⟩ := exec_pin_next h
    exact ⟨rfl, rfl, rfl, rfl, rfl, rfl, hwrites _ rfl, fun _ => rfl⟩
  | dir d =>
    obtain ⟨-, rfl⟩ := exec_dir_next h
    exact ⟨rfl, rfl, rfl, rfl, rfl, rfl, hwrites _ rfl, fun _ => rfl⟩
  | delay p =>
    obtain ⟨-, rfl⟩ := exec_delay_next h
    exact ⟨rfl, rfl, rfl, rfl, rfl, rfl, hwrites _ rfl, fun _ => rfl⟩
  | sample =>
    obtain ⟨-, -, rfl⟩ := exec_sample_next h
    refine microEffect_of_linkStep (linkStep_sampleIn _) ?_ (fun _ => rfl) (fun _ => rfl) ?_ (List.Subset.refl _)
    · simp [sampleIn]
    · intro r hr
      simpa [microWrites] using (mem_sampleIn_unwritten.1 hr).2
  | poll =>
    obtain ⟨-, -, rfl⟩ := exec_poll_next h
    refine microEffect_of_linkStep (linkStep_pollOnce _) (pollOnce_pins _) (fun _ => rfl) (fun _ => rfl) ?_ ?_
    · simp [microWrites]
    · split <;> simp [microReads]
  | set as =>
    obtain ⟨-, rfl⟩ := exec_set_next h
    refine ⟨by simp, by simp, by simp, by simp, by simp [linesAfter], by simp [dirAfter], fun r hr => ?_, fun hw => ?_⟩
    · rw [mem_unwrittenAfter]
      simpa [microWrites] using mem_afterSet_unwritten.1 hr
    · rw [countOpen_readUnwritten, putAll_readUnwritten, noteReads_of_written (rs := setReads as) hw]
  | _ => cases hi

/-- A micro-operation that takes a sample (40_link.md R123, R124). -/
def takesSample : Instr → Bool
  | .sample | .poll => true
  | _ => false

/-- A micro-operation runs from a valid configuration, one that takes a sample while the data-out line is an input
(60_exceptions.md R264, R265). -/
theorem exec_of_isMicro {i : Instr} {s : State} (hi : isMicro i = true) (hc : configOk s.cfg = true)
    (hd : takesSample i = true → s.sdoDir = .input) : ∃ t, exec i s = .next t := by
  cases i with
  | pin r b => exact ⟨_, whenConfigured_ok hc _⟩
  | dir d => exact ⟨_, whenConfigured_ok hc _⟩
  | delay p => exact ⟨_, whenConfigured_ok hc _⟩
  | sample => exact ⟨_, whenConfigured_whenSampling_ok hc (hd rfl) _⟩
  | poll => exact ⟨_, whenConfigured_whenSampling_ok hc (hd rfl) _⟩
  | set as => exact ⟨_, whenConfigured_ok hc _⟩
  | _ => cases hi

/-! ## The kinds of what registers hold -/

/-- The register `q` holds a value of its kind (10_state.md R24 to R36). -/
abbrev KindOk (q : Reg) (s : State) : Prop := kindAccepts s.cfg.nDesc q.ty (s.readReg q) = true

/-- `desc` is unknown or names a row exactly when it holds a value of its kind (10_state.md R30). -/
theorem kindOk_desc_iff {s : State} : KindOk .desc s ↔ ∀ k ∈ s.ident.desc, k < s.cfg.nDesc := by
  simp only [KindOk, Reg.ty, State.readReg]
  cases s.ident.desc <;> simp [Val.device, kindAccepts]

/-- Writes of values of the right kinds leave values of the right kinds. -/
theorem kindOk_putAll {q : Reg} {s : State} {ws : List (Reg × Val)} (h : KindOk q s)
    (hw : ∀ w ∈ ws, kindAccepts s.cfg.nDesc w.1.ty w.2 = true) : KindOk q (s.putAll ws) := by
  induction ws generalizing s with
  | nil => exact h
  | cons w ws ih =>
    obtain ⟨hfirst, hrest⟩ := List.forall_mem_cons.1 hw
    refine ih ?_ (by simpa using hrest)
    rw [KindOk, put_cfg]
    by_cases hq : q = w.1
    · rw [hq, readReg_put_same s hfirst]
      exact hfirst
    · rw [readReg_put_other s w.2 hq]
      exact h

/-- No micro-operation puts into a register what is no value of its kind (log 21). -/
theorem kindOk_of_exec {q : Reg} {i : Instr} {s t : State} (hi : isMicro i = true) (hq : q ≠ .acc ∧ q ≠ .wres)
    (hk : KindOk q s) (h : exec i s = .next t) : KindOk q t := by
  have hcfg := (microEffect_of_exec hi h).cfg
  have hspared (hs : spares q i = true) : KindOk q t := by
    rw [KindOk, hcfg, readReg_of_spares hs h]
    exact hk
  cases i with
  | pin r b => exact hspared rfl
  | dir d => exact hspared rfl
  | delay p => exact hspared rfl
  | sample => exact hspared (bne_iff_ne.2 hq.1.symm)
  | poll => exact hspared (bne_iff_ne.2 hq.2.symm)
  | set as =>
    obtain ⟨-, rfl⟩ := exec_set_next h
    have hnoted : KindOk q ((noteReads (setReads as) s).putAll (setWrites s as)) := by
      refine kindOk_putAll (by rwa [KindOk, noteReads_readReg]) fun w hw => ?_
      obtain ⟨x, -, rfl⟩ := List.mem_map.1 hw
      exact kindAccepts_writtenValue s as x.1 x.2
    rwa [KindOk, countOpen_readReg]
  | _ => cases hi

end Sys2Proof.Machine
end

section
/-! What the list of each phase does when it runs from its beginning to its end (45_session.md R223, R224;
41_power.md R143, R145; 40_link.md R127; 70_reset_and_hazards.md R292): the registers it writes, the lines and the
direction it leaves, and that it writes before it reads. -/

namespace Sys2Proof.Machine

/-! ## The registers a phase writes -/

/-- The registers a phase writes beside those of the link (45_session.md R222). -/
def phaseWrites : Phase → List Reg
  | .idle | .pEnter | .pUnknown => []
  | .pIdent => [.sig, .desc, .oSignature, .oDevice]
  | .pRead => [.oFuseL0, .oFuseH0, .oFuseE0, .oLockRaw0, .oLb1, .oLb2, .locked0, .oLocked0]
  | .pErase => [.erased, .escalated, .oErased, .oEscalated]
  | .pWrite => [.wrote, .oWrote, .oWrittenL, .oWrittenH, .oWrittenE]
  | .pVerify => [.oFuseL1, .oFuseH1, .oFuseE1, .oLockRaw1, .oLocked1]
  | .pExit => [.oValid]

/-- A phase writes no register but those of the link and its own. -/
theorem phaseList_spares {q : Reg} {p : Phase} (hlink : ∀ r ∈ linkRegs, r ≠ q) (hq : q ∉ phaseWrites p) (c : Config)
    (d : Descriptor) (erased : Bool) : (phaseList p c d erased).all (spares q) = true := by
  cases p with
  | idle => rfl
  | pUnknown => rfl
  | pEnter => rfl
  | pIdent =>
    simp only [phaseWrites, List.mem_cons, List.not_mem_nil, or_false, not_or, ne_comm (a := q)] at hq
    simp [phaseList, identList, expandRdsig_spares hlink hq.1, hq, -List.all_eq_true]
  | pRead =>
    simp only [phaseWrites, List.mem_cons, List.not_mem_nil, or_false, not_or, ne_comm (a := q)] at hq
    obtain ⟨hl, hh, he, hrest⟩ := hq
    simp [phaseList, readList, readFusesList_spares hlink hl hh he, expandRdlk_spares hlink, hrest,
      -List.all_eq_true]
  | pErase =>
    simp only [phaseWrites, List.mem_cons, List.not_mem_nil, or_false, not_or, ne_comm (a := q)] at hq
    simp [phaseList, eraseList, expandErase_spares hlink, hq, -List.all_eq_true]
  | pWrite =>
    simp only [phaseWrites, List.mem_cons, List.not_mem_nil, or_false, not_or, ne_comm (a := q)] at hq
    cases hefuse : d.efuseDef <;>
      simp [phaseList, writeList, hefuse, expandPairs_spares hlink, hq, -List.all_eq_true]
  | pVerify =>
    simp only [phaseWrites, List.mem_cons, List.not_mem_nil, or_false, not_or, ne_comm (a := q)] at hq
    obtain ⟨hl, hh, he, hrest⟩ := hq
    cases erased <;>
      simp [phaseList, verifyList, readFusesList_spares hlink hl hh he, expandRdlk_spares hlink, hrest,
        -List.all_eq_true]
  | pExit =>
    simp only [phaseWrites, List.mem_cons, List.not_mem_nil, or_false, ne_comm (a := q)] at hq
    simp [phaseList, exitList, expandExit, hq]

/-- The lists of the phases are made of micro-operations (45_session.md R224). -/
theorem isMicro_of_mem_phaseList {p : Phase} {c : Config} {d : Descriptor} {erased : Bool} {i : Instr}
    (h : i ∈ phaseList p c d erased) : isMicro i = true :=
  isMicro_of_spares (List.all_eq_true.1 (phaseList_spares_action (.inl rfl) p c d erased) i h)

/-! ## The direction -/

/-- Everything but a DIR leaves the direction alone. -/
def keepsDir : Instr → Bool
  | .dir _ => false
  | _ => true

theorem dirAfter_of_keepsDir {ops : List Instr} (h : ops.all keepsDir = true) (d : Dir) : dirAfter d ops = d := by
  induction ops with
  | nil => rfl
  | cons i ops ih =>
    simp only [List.all_cons, Bool.and_eq_true] at h
    cases i with
    | dir e => cases h.1
    | _ => exact ih h.2

theorem expandPairs_keepsDir (w : Widths) (ps : List FramePair) : (expandPairs w ps).all keepsDir = true := by
  simp [expandPairs, expandXfer, expandWait, expandShift, setOne, keepsDir]

theorem readFusesList_keepsDir (c : Config) (d : Descriptor) (l h e : Reg) :
    (readFusesList c d l h e).all keepsDir = true := by
  have hread (x : FuseSel) (r : Reg) : (readFuseList c x r).all keepsDir = true := by
    rw [readFuseList, List.all_append, expandPairs_keepsDir]
    rfl
  rw [readFusesList, List.all_append, List.all_append, hread, hread]
  split
  · exact hread .ext e
  · rfl

theorem expandRdlk_keepsDir (c : Config) : (expandRdlk c).all keepsDir = true := by
  rw [expandRdlk, List.all_append, expandPairs_keepsDir]
  rfl

/-- Only ENTER turns the data-out line round (41_power.md R141). -/
theorem phaseList_keepsDir {p : Phase} (hp : p ≠ .pEnter) (c : Config) (d : Descriptor) (erased : Bool) :
    (phaseList p c d erased).all keepsDir = true := by
  cases p with
  | idle => rfl
  | pEnter => exact absurd rfl hp
  | pUnknown => rfl
  | pIdent =>
    simp only [phaseList, identList, expandRdsig, List.all_append, List.all_flatMap, expandPairs_keepsDir]
    simp [setOne, expandAccumulate, keepsDir]
  | pRead =>
    simp only [phaseList, readList, List.all_append, readFusesList_keepsDir, expandRdlk_keepsDir]
    rfl
  | pErase =>
    simp only [phaseList, eraseList, expandErase, List.all_append, expandPairs_keepsDir]
    rfl
  | pWrite =>
    cases hefuse : d.efuseDef <;>
      simp only [phaseList, writeList, hefuse, List.all_append, expandPairs_keepsDir] <;> rfl
  | pVerify =>
    cases erased <;>
      simp only [phaseList, verifyList, List.all_append, readFusesList_keepsDir, expandRdlk_keepsDir,
        if_true, Bool.false_eq_true, if_false] <;> rfl
  | pExit => rfl

/-- Where a phase takes a sample, the data-out line is an input (60_exceptions.md R264). -/
theorem dirAfter_take_of_takesSample {p : Phase} {c : Config} {d : Descriptor} {erased : Bool} {k : Nat} {i : Instr}
    (hi : (phaseList p c d erased)[k]? = some i) (hs : takesSample i = true) :
    dirAfter .input ((phaseList p c d erased).take k) = .input := by
  have hp : p ≠ .pEnter := by
    rintro rfl
    have hnone : ∀ i ∈ expandEnter, takesSample i = false := by decide
    rw [hnone i (List.mem_of_getElem? hi)] at hs
    cases hs
  refine dirAfter_of_keepsDir (List.all_eq_true.2 fun j hj => ?_) _
  exact List.all_eq_true.1 (phaseList_keepsDir hp c d erased) j (List.mem_of_mem_take hj)

/-- At the end of every phase the data-out line is an input (41_power.md R143, R145). -/
theorem dirAfter_phaseList (p : Phase) (c : Config) (d : Descriptor) (erased : Bool) :
    dirAfter .input (phaseList p c d erased) = .input := by
  by_cases hp : p = .pEnter
  · rw [hp]
    rfl
  · exact dirAfter_of_keepsDir (phaseList_keepsDir hp c d erased) _

/-! ## The lines -/

/-- A phase between ENTER and EXIT is followed by one that is entered with the supply on and every register written
(45_session.md R223, 41_power.md R143). -/
theorem entry_nextPhase {p : Phase} (hp : p ≠ .idle ∧ p ≠ .pEnter ∧ p ≠ .pExit) (s : State) :
    entryLines (nextPhase s p) = Lines.powered ∧ entryUnwritten (nextPhase s p) = [] := by
  obtain ⟨hidle, henter, hexit⟩ := hp
  cases p with
  | idle => exact absurd rfl hidle
  | pEnter => exact absurd rfl henter
  | pExit => exact absurd rfl hexit
  | pUnknown | pWrite | pVerify => exact ⟨rfl, rfl⟩
  | pIdent | pErase =>
    simp only [nextPhase]
    split <;> exact ⟨rfl, rfl⟩
  | pRead =>
    simp only [nextPhase]
    split
    · exact ⟨rfl, rfl⟩
    · split <;> exact ⟨rfl, rfl⟩

/-- A transfer leaves the three lines of the link low (40_link.md R127). -/
theorem linesAfter_expandXfer {c : Config} (hc : configOk c = true) (l : Lines) (d i : Byte) :
    linesAfter l (expandXfer c.widths d i) = { l with sci := false, sdi := false, sii := false } := by
  simp [expandXfer, frameBitOrder_of_configOk hc, expandWait, expandShift, setOne, linesAfter, frameOf_bit_zero hc]

/-- A sequence that is not empty leaves the three lines of the link low (40_link.md R127). -/
theorem linesAfter_expandPairs {c : Config} (hc : configOk c = true) (l : Lines) {ps : List FramePair} (hne : ps ≠ []) :
    linesAfter l (expandPairs c.widths ps) = { l with sci := false, sdi := false, sii := false } := by
  induction ps generalizing l with
  | nil => exact absurd rfl hne
  | cons p ps ih =>
    have hcons : expandPairs c.widths (p :: ps) = expandXfer c.widths p.sdi p.sii ++ expandPairs c.widths ps := rfl
    rw [hcons, linesAfter_append, linesAfter_expandXfer hc]
    cases ps with
    | nil => rfl
    | cons q qs => exact ih _ (List.cons_ne_nil q qs)

/-- Some micro-operations that leave the latches as ENTER left them (41_power.md R143, 40_link.md R127). -/
abbrev KeepsPowered (ops : List Instr) : Prop := linesAfter Lines.powered ops = Lines.powered

theorem KeepsPowered.append {a b : List Instr} (ha : KeepsPowered a) (hb : KeepsPowered b) : KeepsPowered (a ++ b) := by
  rw [KeepsPowered, linesAfter_append, ha, hb]

section

variable {c : Config} (hc : configOk c = true)
include hc

theorem keepsPowered_expandPairs (ps : List FramePair) : KeepsPowered (expandPairs c.widths ps) := by
  cases ps with
  | nil => rfl
  | cons p ps => exact linesAfter_expandPairs hc _ (List.cons_ne_nil p ps)

theorem keepsPowered_expandRdlk : KeepsPowered (expandRdlk c) := (keepsPowered_expandPairs hc _).append rfl

theorem keepsPowered_readFusesList (d : Descriptor) (l h e : Reg) : KeepsPowered (readFusesList c d l h e) := by
  have hread (x : FuseSel) (r : Reg) : KeepsPowered (readFuseList c x r) := (keepsPowered_expandPairs hc _).append rfl
  refine ((hread .low l).append (hread .high h)).append ?_
  split
  · exact hread .ext e
  · rfl

theorem keepsPowered_identList : KeepsPowered (identList c) := by
  have hbyte (idx : Byte) : KeepsPowered (expandPairs c.widths (c.rdsbPairs idx) ++ [expandAccumulate c.widths]) :=
    (keepsPowered_expandPairs hc _).append rfl
  refine KeepsPowered.append (KeepsPowered.append rfl ?_) rfl
  simp only [Config.sigOrder, List.flatMap_cons, List.flatMap_nil, List.append_nil]
  exact (hbyte _).append (hbyte _)

theorem keepsPowered_readList (d : Descriptor) : KeepsPowered (readList c d) :=
  ((keepsPowered_readFusesList hc d _ _ _).append (keepsPowered_expandRdlk hc)).append rfl

theorem keepsPowered_eraseList : KeepsPowered (eraseList c) :=
  ((keepsPowered_expandPairs hc _).append rfl).append rfl

theorem keepsPowered_writeList (d : Descriptor) : KeepsPowered (writeList c d) := by
  have hlow := keepsPowered_expandPairs hc (c.writePairs .low d.lfuseDef)
  have hhigh := keepsPowered_expandPairs hc (c.writePairs .high d.hfuseDef)
  unfold writeList
  cases d.efuseDef with
  | none => exact (((hlow.append hhigh).append rfl).append rfl).append rfl
  | some e => exact (((hlow.append hhigh).append (keepsPowered_expandPairs hc _)).append rfl).append rfl

theorem keepsPowered_verifyList (d : Descriptor) (erased : Bool) : KeepsPowered (verifyList c d erased) := by
  refine (keepsPowered_readFusesList hc d _ _ _).append ?_
  cases erased with
  | true => exact (keepsPowered_expandRdlk hc).append rfl
  | false => rfl

/-- A phase leaves the lines as the next one expects them (41_power.md R143, R145; 40_link.md R127). -/
theorem linesAfter_phaseList (p : Phase) (d : Descriptor) (erased : Bool) (s : State) :
    linesAfter (entryLines p) (phaseList p c d erased) = entryLines (nextPhase s p) := by
  cases p with
  | idle | pEnter | pUnknown | pExit => rfl
  | pIdent => exact (keepsPowered_identList hc).trans (entry_nextPhase (by decide) s).1.symm
  | pRead => exact (keepsPowered_readList hc d).trans (entry_nextPhase (by decide) s).1.symm
  | pErase => exact (keepsPowered_eraseList hc).trans (entry_nextPhase (by decide) s).1.symm
  | pWrite => exact keepsPowered_writeList hc d
  | pVerify => exact keepsPowered_verifyList hc d erased

end

/-! ## Writes before reads -/

/-- No micro-operation reads a register that is unwritten when it runs (70_reset_and_hazards.md R292), where `u` are
those unwritten at first. -/
def ReadsWritten : List Reg → List Instr → Prop
  | _, [] => True
  | u, i :: ops => (∀ r ∈ microReads i, r ∉ u) ∧ ReadsWritten (unwrittenAfter u [i]) ops

theorem readsWritten_append {u : List Reg} {a b : List Instr} :
    ReadsWritten u (a ++ b) ↔ ReadsWritten u a ∧ ReadsWritten (unwrittenAfter u a) b := by
  induction a generalizing u with
  | nil => exact (and_iff_right trivial).symm
  | cons i a ih => exact (and_congr_right fun _ => ih).trans and_assoc.symm

/-- Reads of registers that have all been written at first. -/
theorem readsWritten_of_written {u : List Reg} {ops : List Instr} (h : ∀ i ∈ ops, ∀ r ∈ microReads i, r ∉ u) :
    ReadsWritten u ops := by
  induction ops generalizing u with
  | nil => trivial
  | cons i ops ih =>
    rw [List.forall_mem_cons] at h
    exact ⟨h.1, ih fun j hj r hr hu => h.2 j hj r hr (mem_unwrittenAfter.1 hu).1⟩

theorem readsWritten_nil (ops : List Instr) : ReadsWritten [] ops :=
  readsWritten_of_written fun _ _ _ _ => List.not_mem_nil

/-- The micro-operation at a place of the list reads nothing that those before it have not written. -/
theorem ReadsWritten.at {u : List Reg} {ops : List Instr} (h : ReadsWritten u ops) {k : Nat} {i : Instr}
    (hi : ops[k]? = some i) : ∀ r ∈ microReads i, r ∉ unwrittenAfter u (ops.take k) := by
  obtain ⟨hk, rfl⟩ := List.getElem?_eq_some_iff.1 hi
  rw [← List.take_append_drop k ops, readsWritten_append, List.drop_eq_getElem_cons hk] at h
  exact h.2.1

/-- The link registers that the micro-operations of a transfer write whatever the target answers (40_link.md R126). -/
def transferWrites : List Reg := [.dout, .iout, .acc, .bidx, .rbyte, .wstart]

/-- A transfer clears the accumulator before it samples and sets its timer before it polls (40_link.md R112, R115). -/
theorem readsWritten_expandXfer (u : List Reg) (w : Widths) (d i : Byte) : ReadsWritten u (expandXfer w d i) := by
  have hsplit : expandXfer w d i =
      [.set [⟨.dout, .un .frame (litBits d)⟩, ⟨.iout, .un .frame (litBits i)⟩], setOne .acc (.num 0),
        setOne .wstart (.atom .now)] ++ ([.poll] ++ (frameBitOrder w).flatMap (expandShift (frameOf w d) (frameOf w i))
        ++ [setOne .rbyte (.un (.trunc w.dataBits) (.un (.shr w.padTrail) (.reg .acc)))]) := by
    simp [expandXfer, expandWait]
  rw [hsplit, readsWritten_append]
  constructor
  · exact readsWritten_of_written fun j hj => by
      simp only [List.mem_cons, List.not_mem_nil, or_false] at hj
      rcases hj with rfl | rfl | rfl <;> exact fun r hr => nomatch hr
  · refine readsWritten_of_written fun j hj r hr hu => ?_
    have hread : r = .acc ∨ r = .wstart := by
      simp only [expandShift, List.mem_append, List.mem_flatMap, List.mem_cons, List.not_mem_nil, or_false] at hj
      rcases hj with (rfl | ⟨b, -, rfl | rfl | rfl | rfl | rfl | rfl⟩) | rfl <;>
        simp_all [microReads, setOne, setReads, exprReads, atomReads]
    rw [mem_unwrittenAfter] at hu
    rcases hread with rfl | rfl <;> simp [microWrites, setOne] at hu

theorem readsWritten_expandPairs (u : List Reg) (w : Widths) (ps : List FramePair) : ReadsWritten u (expandPairs w ps) := by
  induction ps generalizing u with
  | nil => trivial
  | cons p ps ih => exact readsWritten_append.2 ⟨readsWritten_expandXfer u w p.sdi p.sii, ih _⟩

/-- A sequence that is not empty writes the registers of its transfers. -/
theorem not_mem_unwrittenAfter_expandPairs {c : Config} (hc : configOk c = true) {ps : List FramePair} (hne : ps ≠ [])
    {u : List Reg} {r : Reg} (hr : r ∈ transferWrites) : r ∉ unwrittenAfter u (expandPairs c.widths ps) := by
  obtain ⟨p, ps, rfl⟩ := List.exists_cons_of_ne_nil hne
  intro hu
  have hnone := (mem_unwrittenAfter.1 hu).2
  simp only [expandPairs, List.flatMap_cons, expandXfer, frameBitOrder_of_configOk hc, expandWait, expandShift, setOne,
    List.mem_append, List.mem_cons] at hnone
  simp only [transferWrites, List.mem_cons, List.not_mem_nil, or_false] at hr
  rcases hr with rfl | rfl | rfl | rfl | rfl | rfl
  · exact hnone (.set [⟨.dout, .un .frame (litBits p.sdi)⟩, ⟨.iout, .un .frame (litBits p.sii)⟩]) (by simp)
      (by simp [microWrites])
  · exact hnone (.set [⟨.dout, .un .frame (litBits p.sdi)⟩, ⟨.iout, .un .frame (litBits p.sii)⟩]) (by simp)
      (by simp [microWrites])
  · exact hnone (.set [⟨.acc, .num 0⟩]) (by simp) (by simp [microWrites])
  · exact hnone (.set [⟨.bidx, .num 0⟩]) (by simp) (by simp [microWrites])
  · exact hnone (.set [⟨.rbyte, .un (.trunc c.widths.dataBits) (.un (.shr c.widths.padTrail) (.reg .acc))⟩]) (by simp)
      (by simp [microWrites])
  · exact hnone (.set [⟨.wstart, .atom .now⟩]) (by simp) (by simp [microWrites])

/-- One signature byte and its addition to `sig`, once that has been cleared (42_identify.md R160, R161). -/
theorem readsWritten_sigByte {c : Config} (hc : configOk c = true) {u : List Reg} (hsig : .sig ∉ u) (idx : Byte) :
    ReadsWritten u (expandPairs c.widths (c.rdsbPairs idx) ++ [expandAccumulate c.widths]) := by
  have hne : c.rdsbPairs idx ≠ [] := List.ne_nil_of_length_pos (by rw [Laws.length_rdsbPairs hc]; decide)
  refine readsWritten_append.2 ⟨readsWritten_expandPairs u _ _, readsWritten_of_written fun i hi r hr => ?_⟩
  have hread : r = .sig ∨ r = .rbyte := by
    rw [List.mem_singleton.1 hi] at hr
    simpa [expandAccumulate, setOne, microReads, setReads, exprReads, atomReads] using hr
  rcases hread with rfl | rfl
  · exact fun hu => hsig (mem_unwrittenAfter.1 hu).1
  · exact not_mem_unwrittenAfter_expandPairs hc hne (by decide)

/-- P_IDENT as its two signature bytes between the clearing of `sig` and the classification (30_encoding.md R98). -/
theorem identList_eq (c : Config) : identList c =
    [setOne .sig (.num 0)] ++ ((expandPairs c.widths (c.rdsbPairs c.sigIndices.first) ++ [expandAccumulate c.widths]) ++
      ((expandPairs c.widths (c.rdsbPairs c.sigIndices.second) ++ [expandAccumulate c.widths]) ++
        [setOne .desc (.un .classify (.reg .sig)), setOne .oSignature (.reg .sig), setOne .oDevice (.reg .desc)])) := by
  simp [identList, expandRdsig, Config.sigOrder]

/-- After its first micro-operation P_IDENT has written `sig`. -/
theorem not_mem_unwrittenAfter_of_cleared (u : List Reg) (ops : List Instr) :
    .sig ∉ unwrittenAfter (unwrittenAfter u [setOne .sig (.num 0)]) ops := fun hu => by
  have hcleared := (mem_unwrittenAfter.1 (mem_unwrittenAfter.1 hu).1).2
  simp [setOne, microWrites] at hcleared

/-- P_IDENT reads nothing that it has not written, whatever is unwritten when it begins. -/
theorem readsWritten_identList {c : Config} (hc : configOk c = true) (u : List Reg) : ReadsWritten u (identList c) := by
  have hsig := not_mem_unwrittenAfter_of_cleared u
  have hclassify {v : List Reg} (hv : .sig ∉ v) : ReadsWritten v
      [setOne .desc (.un .classify (.reg .sig)), setOne .oSignature (.reg .sig), setOne .oDevice (.reg .desc)] := by
    refine ⟨fun r hr => ?_, fun r hr hu => ?_, fun r hr hu => ?_, trivial⟩
    · rwa [List.mem_singleton.1 hr]
    · rw [List.mem_singleton.1 hr] at hu
      exact hv (mem_unwrittenAfter.1 hu).1
    · rw [List.mem_singleton.1 hr] at hu
      have hwritten := (mem_unwrittenAfter.1 (mem_unwrittenAfter.1 hu).1).2
      simp [setOne, microWrites] at hwritten
  rw [identList_eq]
  refine readsWritten_append.2 ⟨⟨nofun, trivial⟩, readsWritten_append.2 ⟨readsWritten_sigByte hc (hsig []) _,
    readsWritten_append.2 ⟨readsWritten_sigByte hc (hsig _) _, ?_⟩⟩⟩
  rw [← unwrittenAfter_append]
  exact hclassify (hsig _)

/-- P_IDENT writes the registers of the link and its own (45_session.md R222). -/
theorem identList_writes {c : Config} (hc : configOk c = true) {u : List Reg} {r : Reg}
    (hr : r ∈ transferWrites ∨ r = .sig ∨ r = .desc) : r ∉ unwrittenAfter u (identList c) := by
  have hne : c.rdsbPairs c.sigIndices.first ≠ [] := List.ne_nil_of_length_pos (by rw [Laws.length_rdsbPairs hc]; decide)
  rw [identList_eq]
  rcases hr with hr | rfl | rfl
  · simp only [unwrittenAfter_append]
    exact fun hu => not_mem_unwrittenAfter_expandPairs hc hne hr (mem_unwrittenAfter.1 (mem_unwrittenAfter.1
      (mem_unwrittenAfter.1 (mem_unwrittenAfter.1 hu).1).1).1).1
  · intro hu
    simpa [setOne, microWrites] using (mem_unwrittenAfter.1 hu).2 (setOne .sig (.num 0)) (by simp)
  · intro hu
    simpa [setOne, microWrites] using (mem_unwrittenAfter.1 hu).2 (setOne .desc (.un .classify (.reg .sig))) (by simp)

section

variable {c : Config} (hc : configOk c = true)
include hc

/-- No phase reads a register that may be unwritten on entry to it before it writes it (70_reset_and_hazards.md R292). -/
theorem readsWritten_phaseList (p : Phase) (d : Descriptor) (erased : Bool) :
    ReadsWritten (entryUnwritten p) (phaseList p c d erased) := by
  cases p with
  | idle => trivial
  | pEnter =>
    have hnone : ∀ i ∈ expandEnter, microReads i = [] := by decide
    exact readsWritten_of_written fun i hi r hr => by
      rw [hnone i hi] at hr
      cases hr
  | pIdent => exact readsWritten_identList hc _
  | pUnknown | pRead | pErase | pWrite | pVerify | pExit => exact readsWritten_nil _

/-- At the end of a phase no more is unwritten than the next one allows (70_reset_and_hazards.md R292). -/
theorem unwrittenAfter_phaseList (p : Phase) (d : Descriptor) (erased : Bool) (s : State) :
    unwrittenAfter (entryUnwritten p) (phaseList p c d erased) ⊆ entryUnwritten (nextPhase s p) := by
  have hnothing {q : Phase} (hq : entryUnwritten q = []) (v : List Reg) :
      unwrittenAfter (entryUnwritten q) (phaseList q c d erased) ⊆ v := fun r hr => by
    rw [mem_unwrittenAfter, hq] at hr
    cases hr.1
  cases p with
  | idle => exact List.Subset.refl _
  | pEnter => exact fun r hr => (mem_unwrittenAfter.1 hr).1
  | pIdent =>
    intro r hr
    have hfound : r ∈ transferWrites ∨ r = .sig ∨ r = .desc := by
      simpa [entryUnwritten, transferWrites, or_assoc] using (mem_unwrittenAfter.1 hr).1
    exact absurd hr (identList_writes hc hfound)
  | pUnknown | pRead | pErase | pWrite | pVerify | pExit => exact hnothing rfl _

end

end Sys2Proof.Machine
end

section
/-! What a session keeps true at every step (45_session.md R224; 10_state.md R21, R22, R37 to R39; 40_link.md R119;
70_reset_and_hazards.md R292). The order of the trace is kept by every primitive; the rest is kept by the two kinds of
step inside a session, a micro-operation of the phase's list and the phase's exit transition, and by the two steps of
IDLE. -/

namespace Sys2Proof.Machine

variable {s t u : State}

/-! ## The trace -/

/-- The times of the latch writes of a trace with one more event. -/
theorem pinTimes_concat (tr : List Event) (e : Event) :
    pinTimes (tr ++ [e]) = pinTimes tr ++ if isLevelEvent e then [e.time] else [] := by
  cases h : isLevelEvent e <;> simp [pinTimes, h]

/-- Time that passes keeps the trace in order. -/
theorem traceOk_of_same (h : TraceOk s) (hcfg : t.cfg = s.cfg) (htrace : t.trace = s.trace) (hnow : s.now ≤ t.now) :
    TraceOk t := by
  obtain ⟨hsorted, hpast, hedge⟩ := h
  refine ⟨?_, ?_, ?_⟩ <;> rw [htrace]
  · exact hsorted
  · exact fun e he => (hpast e he).trans hnow
  · rwa [hcfg]

/-- One more event keeps the trace in order, where it is not in the past, and a latch write not too early. -/
theorem traceOk_concat {e : Event} (h : TraceOk s) (hcfg : t.cfg = s.cfg) (htrace : t.trace = s.trace ++ [e])
    (hfrom : s.now ≤ e.time) (hto : e.time ≤ t.now)
    (hlevel : isLevelEvent e = true → ∀ d ∈ s.cfg.timing.edgeMin, ∀ p ∈ pinTimes s.trace, p + d ≤ e.time) :
    TraceOk t := by
  obtain ⟨hsorted, hpast, hedge⟩ := h
  refine ⟨?_, ?_, fun d hd => ?_⟩ <;> rw [htrace]
  · rw [List.map_append, List.pairwise_append]
    refine ⟨hsorted, List.pairwise_singleton _ _, fun a ha b hb => ?_⟩
    obtain ⟨f, hf, rfl⟩ := List.mem_map.1 ha
    rw [List.mem_singleton.1 hb]
    exact (hpast f hf).trans hfrom
  · intro f hf
    rcases List.mem_append.1 hf with hf | hf
    · exact (hpast f hf).trans (hfrom.trans hto)
    · rwa [List.mem_singleton.1 hf]
  · rw [hcfg] at hd
    rw [pinTimes_concat]
    cases hl : isLevelEvent e
    · simpa using hedge d hd
    · refine List.pairwise_append.2 ⟨hedge d hd, List.pairwise_singleton _ _, fun a ha b hb => ?_⟩
      rw [List.mem_singleton.1 hb]
      exact hlevel hl d hd a ha

/-- A latch is written no earlier than `T_EDGE_MIN` after every latch write before it (40_link.md R119). -/
theorem pinTimes_add_le_edgeTime (h : TraceOk s) {d p : Nat} (hd : s.cfg.timing.edgeMin = some d)
    (hp : p ∈ pinTimes s.trace) : p + d ≤ s.edgeTime := by
  have hsorted : (pinTimes s.trace).Pairwise (· ≤ ·) := h.1.sublist (List.filter_sublist.map _)
  obtain hnil | ⟨before, last, hlast⟩ := List.eq_nil_or_concat (pinTimes s.trace)
  · rw [hnil] at hp
    cases hp
  · have hedge : last + d ≤ s.edgeTime := edgeMin_le_edgeTime hd (by rw [← getLast?_pinTimes, hlast]; simp)
    rw [hlast, List.concat_eq_append] at hp hsorted
    rcases List.mem_append.1 hp with hp | hp
    · exact (Nat.add_le_add_right ((List.pairwise_append.1 hsorted).2.2 p hp last (by simp)) d).trans hedge
    · rwa [List.mem_singleton.1 hp]

theorem Primitive.traceOk_run (p : Primitive) (h : TraceOk s) : TraceOk (p.run s) := by
  cases p with
  | pin r b =>
    exact traceOk_concat h rfl rfl (now_le_edgeTime s) (Nat.le_add_right _ _)
      fun _ _ hd _ hp => pinTimes_add_le_edgeTime h hd hp
  | setDir d => exact traceOk_concat h rfl rfl (le_refl _) (Nat.le_add_right _ _) nofun
  | observe => exact traceOk_concat h rfl rfl (le_refl _) (Nat.le_add_right _ _) nofun
  | elapse d => exact traceOk_of_same h rfl rfl ((Primitive.elapse d).now_le_run s)
  | put r v => exact traceOk_of_same h (put_cfg s r v) (put_trace s r v) (put_now s r v).ge
  | noteReads | countOpen | jump | setHost | setIssue => exact h

/-- Every run keeps the trace in order (10_state.md R38, R39; 40_link.md R119). -/
theorem traceOk_of_run (hr : Run s t) (h : TraceOk s) : TraceOk t := by
  induction hr with
  | refl => exact h
  | tail _ hp ih =>
    obtain ⟨p, rfl⟩ := hp
    exact p.traceOk_run ih

/-! ## The list of a phase stays the same -/

/-- `desc` names a row of `DESC` (10_state.md R30). -/
abbrev HasRow (s : State) : Prop := ∃ k, s.ident.desc = some k ∧ k < s.cfg.nDesc

/-- The phases that work on a row of `DESC` (45_session.md R222, R223). -/
abbrev rowPhases : List Phase := [.pRead, .pErase, .pWrite, .pVerify]

/-- While `desc` names a row, `DESC[desc]` depends on nothing else (45_session.md R222). -/
theorem row_of_same_desc (hcfg : t.cfg = s.cfg) (hdesc : t.ident.desc = s.ident.desc) (hrow : HasRow s) :
    t.row = s.row := by
  obtain ⟨k, hk, hlt⟩ := hrow
  have hknown : s.cfg.desc[k]? = some (s.cfg.desc[k]'hlt) := List.getElem?_eq_getElem hlt
  simp [State.row, State.knownRow, hcfg, hdesc, hk, hknown]

theorem hasRow_of_pcOk (h : PcOk s) (hp : s.pc.phase ∈ rowPhases) : HasRow s := by
  obtain ⟨-, hbound, hsome⟩ := h
  obtain ⟨k, hk⟩ := Option.ne_none_iff_exists'.1 (hsome hp)
  exact ⟨k, hk, hbound k hk⟩

/-- A step of a phase leaves its list as it is: it depends on registers that the phase does not write
(45_session.md R224). -/
theorem uprog_of_exec {p : Phase} {i : Instr} (hrow : p ∈ rowPhases → HasRow s) (hi : i ∈ uprog p s)
    (h : exec i s = .next t) : uprog p t = uprog p s := by
  have hcfg : t.cfg = s.cfg := (microEffect_of_exec (isMicro_of_mem_phaseList hi) h).cfg
  have hkept {q : Reg} (hlink : ∀ r ∈ linkRegs, r ≠ q) (hq : q ∉ phaseWrites p) : t.readReg q = s.readReg q :=
    readReg_of_spares (List.all_eq_true.1 (phaseList_spares hlink hq _ _ _) i hi) h
  have hsame (hp : p ∈ rowPhases) (hq : Reg.desc ∉ phaseWrites p) : t.row = s.row := by
    have hdesc := congrArg Val.toDevice (hkept (q := .desc) (by decide) hq)
    simp only [State.readReg, toDevice_device] at hdesc
    exact row_of_same_desc hcfg hdesc (hrow hp)
  cases p with
  | idle | pEnter | pUnknown | pExit => rfl
  | pIdent => exact congrArg identList hcfg
  | pRead => exact congrArg₂ readList hcfg (hsame (by decide) (by decide))
  | pErase => exact congrArg eraseList hcfg
  | pWrite => exact congrArg₂ writeList hcfg (hsame (by decide) (by decide))
  | pVerify =>
    have herased := congrArg Val.toFlag (hkept (q := .erased) (by decide) (by decide))
    simp only [State.readReg, toFlag_flag] at herased
    simp only [uprog, phaseList, hcfg, hsame (by decide) (by decide), herased]

/-! ## A micro-operation of the phase -/

/-- A micro-operation that has run is one more of those that are complete; a POLL that goes on is not, but that makes
no difference to what they did. -/
theorem doneOps_advance {i : Instr} (hpc : u.pc = s.pc) (hlist : uprog s.pc.phase u = uprog s.pc.phase s)
    (hi : (uprog s.pc.phase s)[s.pc.upc]? = some i) :
    doneOps (advance (microEnds i s) u) = doneOps s ++ [i] ∨
      i = .poll ∧ doneOps (advance (microEnds i s) u) = doneOps s := by
  have hlist' (n : Nat) : uprog s.pc.phase { u with pc := { s.pc with upc := n } } = uprog s.pc.phase s := hlist
  have htake : doneOps (advance true u) = doneOps s ++ [i] := by
    simp only [doneOps, advance, hpc, if_true]
    rw [hlist', List.take_add_one, hi]
    rfl
  by_cases hpoll : i = .poll
  · cases he : pollEnds s
    · refine .inr ⟨hpoll, ?_⟩
      simp only [doneOps, advance, microEnds, hpoll, he, if_true, hpc, Bool.false_eq_true, if_false]
      rw [hlist']
    · exact .inl (by rw [microEnds, if_pos hpoll, he, htake])
  · exact .inl (by rw [microEnds, if_neg hpoll, htake])

section

variable {i : Instr} (hi : (uprog s.pc.phase s)[s.pc.upc]? = some i)
include hi

/-- The pc names a micro-operation. -/
theorem isMicro_of_op : isMicro i = true := isMicro_of_mem_phaseList (List.mem_of_getElem? hi)

/-- A micro-operation of a session reads nothing that is unwritten (70_reset_and_hazards.md R292). -/
theorem reads_written_of_op (hc : configOk s.cfg = true) (hw : WrittenOk s) : ∀ r ∈ microReads i, r ∉ s.unwritten :=
  fun r hr hmem => (readsWritten_phaseList hc s.pc.phase s.row s.sess.erased).at hi r hr (hw.1 r hmem)

/-- A micro-operation of a session runs (60_exceptions.md R264, R265). -/
theorem exec_of_op (hc : configOk s.cfg = true) (hl : LinesOk s) : ∃ u, exec i s = .next u :=
  exec_of_isMicro (isMicro_of_op hi) hc fun hs => hl.2.trans (dirAfter_take_of_takesSample hi hs)

variable (hu : exec i s = .next u)
include hu

theorem uprog_of_op (hpc : PcOk s) : uprog s.pc.phase u = uprog s.pc.phase s :=
  uprog_of_exec (hasRow_of_pcOk hpc) (List.mem_of_getElem? hi) hu

theorem advance_phase : (advance (microEnds i s) u).pc.phase = s.pc.phase := by
  rw [advance_pc, (microEffect_of_exec (isMicro_of_op hi) hu).pc]

/-- A micro-operation does to the lines what is told of it. -/
theorem linesOk_of_op (hpc : PcOk s) (hl : LinesOk s) : LinesOk (advance (microEnds i s) u) := by
  have heffect := microEffect_of_exec (isMicro_of_op hi) hu
  obtain ⟨hpins, hdir⟩ := hl
  have hpins' : u.pins = linesAfter (entryLines s.pc.phase) (doneOps s ++ [i]) := by
    rw [heffect.pins, hpins, linesAfter_append]
  have hdir' : u.sdoDir = dirAfter .input (doneOps s ++ [i]) := by
    rw [heffect.sdoDir, hdir, dirAfter_append]
  rw [LinesOk, advance_phase hi hu, advance_pins, advance_sdoDir, hpins', hdir']
  rcases doneOps_advance heffect.pc (uprog_of_op hi hu hpc) hi with hdone | ⟨rfl, hdone⟩
  · rw [hdone]
    exact ⟨rfl, rfl⟩
  · rw [hdone, linesAfter_append, dirAfter_append]
    exact ⟨rfl, rfl⟩

/-- A micro-operation writes what is told of it, and records no fault. -/
theorem writtenOk_of_op (hc : configOk s.cfg = true) (hpc : PcOk s) (hw : WrittenOk s) :
    WrittenOk (advance (microEnds i s) u) := by
  have heffect := microEffect_of_exec (isMicro_of_op hi) hu
  have hshrinks : u.unwritten ⊆ unwrittenAfter (entryUnwritten s.pc.phase) (doneOps s ++ [i]) := by
    rw [unwrittenAfter_append]
    exact List.Subset.trans heffect.unwritten (unwrittenAfter_mono hw.1 [i])
  have hrecorded : u.readUnwritten = false := (heffect.recorded (reads_written_of_op hi hc hw)).trans hw.2
  rw [WrittenOk, advance_phase hi hu, advance_unwritten, advance_readUnwritten]
  refine ⟨?_, hrecorded⟩
  rcases doneOps_advance heffect.pc (uprog_of_op hi hu hpc) hi with hdone | ⟨-, hdone⟩
  · rw [hdone]
    exact hshrinks
  · rw [hdone]
    intro r hr
    have hr' := mem_unwrittenAfter.1 (hshrinks hr)
    exact mem_unwrittenAfter.2 ⟨hr'.1, fun j hj => hr'.2 j (List.mem_append_left _ hj)⟩

/-- A micro-operation leaves the pc inside the list, and `desc` at a row (10_state.md R30, R31). -/
theorem pcOk_of_op (hpc : PcOk s) : PcOk (advance (microEnds i s) u) := by
  have heffect := microEffect_of_exec (isMicro_of_op hi) hu
  have hsame := uprog_of_op hi hu hpc
  have hlist : uprog s.pc.phase (advance (microEnds i s) u) = uprog s.pc.phase s := hsame
  have hlt : s.pc.upc < (uprog s.pc.phase s).length := (List.getElem?_eq_some_iff.1 hi).1
  obtain ⟨-, hbound, hsome⟩ := hpc
  refine ⟨?_, ?_, ?_⟩
  · rw [advance_phase hi hu, hlist, advance_pc, heffect.pc]
    dsimp only
    split <;> omega
  · rw [advance_ident, advance_cfg]
    exact kindOk_desc_iff.1 (kindOk_of_exec (isMicro_of_op hi) (by decide) (kindOk_desc_iff.2 hbound) hu)
  · intro hp
    rw [advance_phase hi hu] at hp
    have hspared : spares .desc i = true := by
      refine List.all_eq_true.1 (phaseList_spares (p := s.pc.phase) (by decide) ?_ _ _ _) i (List.mem_of_getElem? hi)
      cases hph : s.pc.phase <;> first | decide | (rw [hph] at hp; revert hp; decide)
    have hdesc := congrArg Val.toDevice (readReg_of_spares hspared hu)
    simp only [State.readReg, toDevice_device] at hdesc
    rw [advance_ident, hdesc]
    exact hsome hp

/-- Only the last micro-operation of P_EXIT publishes the outcome (10_state.md R37). -/
theorem validOk_of_op (hp : s.pc.phase ≠ .idle) (hv : ValidOk s) : ValidOk (advance (microEnds i s) u) := by
  have heffect := microEffect_of_exec (isMicro_of_op hi) hu
  intro hvalid
  rw [advance_outcome] at hvalid
  rw [advance_phase hi hu]
  by_cases hspared : spares .oValid i = true
  · have hkept := congrArg Val.toFlag (readReg_of_spares hspared hu)
    simp only [State.readReg, toFlag_flag] at hkept
    rcases hv (hkept.symm.trans hvalid) with hidle | ⟨hexit, hend⟩
    · exact absurd hidle hp
    · rw [hexit, hend] at hi
      cases hi
  · have hexit : s.pc.phase = .pExit := by
      by_contra hne
      refine hspared (List.all_eq_true.1 (phaseList_spares (p := s.pc.phase) (by decide) ?_ _ _ _) i
        (List.mem_of_getElem? hi))
      cases hph : s.pc.phase <;> first | decide | exact absurd hph hne
    refine .inr ⟨hexit, ?_⟩
    rw [hexit] at hi
    have hlast : ∀ k < exitList.length, ∀ j, exitList[k]? = some j → spares .oValid j = false →
        k + 1 = exitList.length ∧ j ≠ .poll := by decide
    obtain ⟨hk, -⟩ := List.getElem?_eq_some_iff.1 hi
    obtain ⟨hend, hpoll⟩ := hlast _ hk i hi (Bool.eq_false_iff.2 hspared)
    rw [advance_pc, heffect.pc, microEnds, if_neg hpoll]
    exact hend

/-- A micro-operation keeps the invariant of a session. -/
theorem sessionInv_of_op (hp : s.pc.phase ≠ .idle) (h : SessionInv s) : SessionInv (advance (microEnds i s) u) := by
  have heffect := microEffect_of_exec (isMicro_of_op hi) hu
  have hrun : Run s (advance (microEnds i s) u) := (run_of_exec hu).trans ((Primitive.jump _).isRun u)
  obtain ⟨hc, hissue, hpc, hl, hw, hv, ht⟩ := h
  refine ⟨?_, heffect.issue.trans hissue, pcOk_of_op hi hu hpc, linesOk_of_op hi hu hpc hl,
    writtenOk_of_op hi hu hc hpc hw, validOk_of_op hi hu hp hv, traceOk_of_run hrun ht⟩
  rwa [advance_cfg, heffect.cfg]

end

/-! ## The exit transition -/

/-- The registers that a step of a phase reads beside those of its micro-operation have been written
(70_reset_and_hazards.md R292; log 8). -/
theorem phaseReads_written (hw : WrittenOk s) : ∀ r ∈ phaseReads s.pc.phase, r ∉ s.unwritten := by
  intro r hr hu
  have hentry := (mem_unwrittenAfter.1 (hw.1 r hu)).1
  cases hp : s.pc.phase with
  | pRead | pWrite | pVerify =>
    rw [hp] at hentry
    cases hentry
  | idle | pEnter | pIdent | pUnknown | pErase | pExit =>
    rw [hp] at hr
    cases hr

section

variable (hc : configOk s.cfg = true) (hend : (uprog s.pc.phase s).length ≤ s.pc.upc)
include hend

/-- At the end of its list all the micro-operations of a phase are complete. -/
theorem doneOps_of_end : doneOps s = uprog s.pc.phase s := List.take_of_length_le hend

include hc

/-- What the exit transition reads has been written (70_reset_and_hazards.md R292; log 8). -/
theorem exitReads_written (hw : WrittenOk s) : ∀ r ∈ exitReads s.pc.phase, r ∉ s.unwritten := by
  intro r hr hu
  have hopen := hw.1 r hu
  rw [doneOps_of_end hend] at hopen
  have hnext := unwrittenAfter_phaseList hc s.pc.phase s.row s.sess.erased s hopen
  cases hp : s.pc.phase with
  | pIdent | pRead | pErase =>
    rw [hp, (entry_nextPhase (by decide) s).2] at hnext
    cases hnext
  | idle | pEnter | pUnknown | pWrite | pVerify | pExit =>
    rw [hp] at hr
    cases hr

/-- The exit transition of a phase keeps the invariant of a session. -/
theorem sessionInv_of_leave (hp : s.pc.phase ≠ .idle) (h : SessionInv s) : SessionInv (leavePhase s.pc.phase s) := by
  obtain ⟨-, hissue, ⟨-, hbound, hsome⟩, ⟨hpins, hdir⟩, hw, hv, ht⟩ := h
  have hdone := doneOps_of_end hend
  refine ⟨hc, hissue, ⟨Nat.zero_le _, hbound, ?row⟩, ⟨?pins, ?dir⟩, ⟨?written, hw.2⟩, ?valid, ht⟩
  case row =>
    intro hnext
    cases hph : s.pc.phase with
    | idle => exact absurd hph hp
    | pEnter | pUnknown | pVerify | pExit =>
      rw [hph, leavePhase_pc] at hnext
      simp [nextPhase] at hnext
    | pRead | pErase | pWrite => exact hsome (by rw [hph]; decide)
    | pIdent =>
      intro hnone
      have hunknown : nextPhase s .pIdent = .pUnknown := if_pos hnone
      rw [hph, leavePhase_pc, hunknown] at hnext
      exact absurd hnext (by decide)
  case pins =>
    rw [hdone] at hpins
    exact hpins.trans (linesAfter_phaseList hc s.pc.phase s.row s.sess.erased s)
  case dir =>
    rw [hdone] at hdir
    exact hdir.trans (dirAfter_phaseList s.pc.phase s.cfg s.row s.sess.erased)
  case written =>
    intro r hr
    have hopen := hw.1 r hr
    rw [hdone] at hopen
    exact unwrittenAfter_phaseList hc s.pc.phase s.row s.sess.erased s hopen
  case valid =>
    intro hvalid
    rcases hv hvalid with hidle | ⟨hexit, -⟩
    · exact absurd hidle hp
    · rw [hexit]
      exact .inl rfl

end

/-! ## Every step -/

/-- A step inside a session: a micro-operation, or the exit transition; what it reads has been written, so nothing is
recorded. -/
theorem exists_stepPhase_sessionInv (hp : s.pc.phase ≠ .idle) (h : SessionInv s) :
    ∃ t, stepPhase s.pc.phase s = .next t ∧ SessionInv t := by
  obtain ⟨hc, -, -, hl, hw, -, -⟩ := id h
  have hreads := phaseReads_written hw
  cases hop : (uprog s.pc.phase s)[s.pc.upc]? with
  | some i =>
    obtain ⟨u, hu⟩ := exec_of_op hop hc hl
    have hstep := stepPhase_of_op hop (by rw [noteReads_of_written hreads]; exact hu)
    rw [noteReads_of_written hreads] at hstep
    exact ⟨_, hstep, sessionInv_of_op hop hu hp h⟩
  | none =>
    have hend := List.getElem?_eq_none_iff.1 hop
    have hall : ∀ r ∈ phaseReads s.pc.phase ++ exitReads s.pc.phase, r ∉ s.unwritten := fun r hr =>
      (List.mem_append.1 hr).elim (hreads r) (exitReads_written hc hend hw r)
    have hstep := stepPhase_of_end hend
    rw [noteReads_of_written hall] at hstep
    exact ⟨_, hstep, sessionInv_of_leave hc hend hp h⟩

/-- In IDLE no micro-operation is complete (45_session.md R223). -/
theorem doneOps_of_idle (hp : s.pc.phase = .idle) : doneOps s = [] := by
  rw [doneOps, hp]
  exact List.take_nil

/-- A session that is about to enter: nothing of it has run (45_session.md R221). -/
theorem sessionInv_entering (hc : configOk u.cfg = true) (hissue : u.issue = [])
    (hbound : ∀ k ∈ u.ident.desc, k < u.cfg.nDesc) (hpins : u.pins = Lines.resting) (hdir : u.sdoDir = .input)
    (hw : u.unwritten ⊆ entryUnwritten .pEnter) (hrecorded : u.readUnwritten = false)
    (hv : u.outcome.valid = false) (ht : TraceOk u) :
    SessionInv { u with pc := { phase := .pEnter, upc := 0 } } :=
  ⟨hc, hissue, ⟨Nat.zero_le _, hbound, by simp⟩, ⟨hpins, hdir⟩, ⟨hw, hrecorded⟩,
    fun hvalid => absurd (hv.symm.trans hvalid) Bool.false_ne_true, ht⟩

/-- The start of a session keeps the invariant (45_session.md R221). -/
theorem sessionInv_beginSession (hp : s.pc.phase = .idle) (h : SessionInv s) : SessionInv (beginSession s) := by
  obtain ⟨hc, hissue, ⟨-, hbound, -⟩, ⟨hpins, hdir⟩, ⟨hunwritten, hrecorded⟩, -, ht⟩ := h
  rw [doneOps_of_idle hp, hp] at hpins hunwritten
  rw [doneOps_of_idle hp] at hdir
  refine sessionInv_entering ?_ ((startSession_issue _ _).trans hissue) ?_ ((startSession_pins _ _).trans hpins)
    ((startSession_sdoDir _ _).trans hdir) ?_ ((startSession_readUnwritten _ _).trans hrecorded) ?_
    (traceOk_of_run (Lockstep.self s).startSession.run ht)
  · rwa [startSession_cfg]
  · rwa [startSession_ident, startSession_cfg]
  · intro r hr
    obtain ⟨hu, hlist⟩ := mem_startSession_unwritten.1 hr
    have hne : r ≠ .wres := fun e => absurd (e ▸ hunwritten r hu : Reg.wres ∈ resetUnwritten) (by decide)
    simpa [entryUnwritten, hne] using hlist
  · rw [startSession_outcome]
    rfl

/-- A poll of IDLE keeps the invariant: only time passes (60_exceptions.md R276; log 16). -/
theorem sessionInv_idlePoll (hp : s.pc.phase = .idle) (h : SessionInv s) : SessionInv (idlePoll s) := by
  obtain ⟨hc, hissue, ⟨hupc, hbound, hsome⟩, hl, hw, hv, ht⟩ := h
  have hdone : doneOps (idlePoll s) = doneOps s := (doneOps_of_idle (s := idlePoll s) hp).trans (doneOps_of_idle hp).symm
  have hlist : uprog s.pc.phase (idlePoll s) = uprog s.pc.phase s := by
    rw [hp]
    rfl
  refine ⟨hc, hissue, ⟨?_, hbound, hsome⟩, ?_, ?_, hv, traceOk_of_run ((Primitive.elapse 0).isRun s) ht⟩
  · show s.pc.upc ≤ (uprog s.pc.phase (idlePoll s)).length
    rwa [hlist]
  · rw [LinesOk, hdone]
    exact hl
  · rw [WrittenOk, hdone]
    exact hw

/-- Every step of an engine that runs sessions only is there, and keeps the invariant. -/
theorem exists_step_sessionInv (h : SessionInv s) : ∃ t, step s = .next t ∧ SessionInv t := by
  have hdropped : SessionInv (dropTrigger s) := h
  obtain ⟨hc, hissue, -⟩ := id h
  by_cases hp : s.pc.phase = .idle
  · rw [step_of_idle hc hp]
    cases ht : s.host.trigger
    · refine ⟨idlePoll (dropTrigger s), ?_, sessionInv_idlePoll hp hdropped⟩
      simp [stepIdle, hissue]
    · exact ⟨beginSession (dropTrigger s), rfl, sessionInv_beginSession hp hdropped⟩
  · rw [step_of_phase hc hp]
    exact exists_stepPhase_sessionInv (s := dropTrigger s) hp hdropped

/-- Settles O53: the step that there is keeps the invariant. -/
theorem everyStepKeepsSessionInvariant : Obligations.EveryStepKeepsSessionInvariant := by
  intro s t h hstep
  obtain ⟨u, hu, hinv⟩ := exists_step_sessionInv h
  cases hu.symm.trans hstep
  exact hinv

/-- Settles O54: the invariant, which holds after the step, says that no fault is recorded. -/
theorem sessionsNeverStop : Obligations.SessionsNeverStop := by
  intro s h
  obtain ⟨t, ht, -, -, -, -, ⟨-, hrecorded⟩, -⟩ := exists_step_sessionInv h
  exact ⟨t, ht, hrecorded⟩

end Sys2Proof.Machine
end

section
/-! The lists of micro-operations run (40_link.md R126; 45_session.md R224): each list leads from the state before an
operation to the state after it, whatever the pc is meanwhile. -/

namespace Sys2Proof.Machine

variable {s t u : State}

/-! ## Runs of micro-operations -/

/-- The state with another pc. -/
def State.withPc (s : State) (pc : Pc) : State := { s with pc := pc }

@[simp] theorem withPc_cfg (s : State) (pc : Pc) : (s.withPc pc).cfg = s.cfg := rfl

/-- A micro-operation leads from `s` to `t` whatever the pc is, reads nothing that is unwritten, and is complete if
`done` (10_state.md R31). -/
structure Performs (done : Bool) (i : Instr) (s t : State) : Prop where
  micro : isMicro i = true
  runs : ∀ pc, exec i (s.withPc pc) = .next (t.withPc pc)
  ends : ∀ pc, microEnds i (s.withPc pc) = done
  reads : ∀ r ∈ microReads i, r ∉ s.unwritten

/-- Some micro-operations lead from one state to another; a POLL that goes on runs again (40_link.md R124). -/
inductive MicroRun : List Instr → State → State → Prop
  | nil (s : State) : MicroRun [] s s
  | next {i : Instr} {ops : List Instr} {s t u : State} (h : Performs true i s t) (hr : MicroRun ops t u) :
      MicroRun (i :: ops) s u
  | again {i : Instr} {ops : List Instr} {s t u : State} (h : Performs false i s t) (hr : MicroRun (i :: ops) t u) :
      MicroRun (i :: ops) s u

theorem MicroRun.append {a b : List Instr} (ha : MicroRun a s t) (hb : MicroRun b t u) : MicroRun (a ++ b) s u := by
  induction ha with
  | nil s => exact hb
  | next h _ ih => exact .next h (ih hb)
  | again h _ ih => exact .again h (ih hb)

theorem Performs.effect {done : Bool} {i : Instr} (h : Performs done i s t) : MicroEffect i s (t.withPc s.pc) :=
  microEffect_of_exec h.micro (h.runs s.pc)

/-! ## The primitives -/

theorem performs_pin (hc : configOk s.cfg = true) (r : Role) (b : Bool) : Performs true (.pin r b) s (pin r b s) :=
  ⟨rfl, fun pc => whenConfigured_ok (s := s.withPc pc) hc _, fun _ => rfl, nofun⟩

theorem performs_dir (hc : configOk s.cfg = true) (d : Dir) : Performs true (.dir d) s (setDir d s) :=
  ⟨rfl, fun pc => whenConfigured_ok (s := s.withPc pc) hc _, fun _ => rfl, nofun⟩

theorem performs_delay (hc : configOk s.cfg = true) (p : TimeParam) : Performs true (.delay p) s (delay p s) :=
  ⟨rfl, fun pc => whenConfigured_ok (s := s.withPc pc) hc _, fun _ => rfl, nofun⟩

theorem performs_sample (hc : configOk s.cfg = true) (hd : s.sdoDir = .input) (hacc : .acc ∉ s.unwritten) :
    Performs true .sample s (sampleIn s) := by
  have hreads : ∀ r ∈ [Reg.acc], r ∉ s.unwritten := by simpa using hacc
  refine ⟨rfl, fun pc => ?_, fun _ => rfl, hreads⟩
  refine (whenConfigured_whenSampling_ok (s := s.withPc pc) hc hd _).trans ?_
  rw [noteReads_of_written (s := s.withPc pc) hreads]
  rfl

/-- No POLL reads the pc. -/
theorem pollOnce_withPc (s : State) (pc : Pc) : pollOnce (s.withPc pc) = (pollOnce s).withPc pc := by
  cases hl : s.sdoLevel
  · cases hd : deadlinePassed s
    · have he : pollEnds s = false := by simp [pollEnds, hl, hd]
      rw [pollOnce_goesOn he, pollOnce_goesOn (s := s.withPc pc) he]
      rfl
    · rw [pollOnce_deadline hl hd, pollOnce_deadline (s := s.withPc pc) hl hd]
      rfl
  · rw [pollOnce_high hl, pollOnce_high (s := s.withPc pc) hl]
    rfl

theorem performs_poll (hc : configOk s.cfg = true) (hd : s.sdoDir = .input) (hw : .wstart ∉ s.unwritten) :
    Performs (pollEnds s) .poll s (pollOnce s) := by
  have hreads : ∀ r ∈ [Reg.wstart], r ∉ s.unwritten := by simpa using hw
  have hnoted : ∀ r ∈ (if s.sdoLevel then [] else [Reg.wstart]), r ∉ s.unwritten := by
    cases s.sdoLevel
    · exact hreads
    · exact nofun
  refine ⟨rfl, fun pc => ?_, fun _ => rfl, hreads⟩
  refine (whenConfigured_whenSampling_ok (s := s.withPc pc) hc hd _).trans ?_
  rw [← pollOnce_withPc]
  exact congrArg (fun t => Host.Outcome.next (pollOnce t)) (noteReads_of_written (s := s.withPc pc) hnoted)

/-! ## SET -/

/-- The spec states the value of an expression in a state, and it is `v` (40_link.md R125). -/
structure Gives (s : State) (e : Expr) (v : Val) : Prop where
  value : ∀ place, evalExpr s e place = v
  stated : ∀ place, exprOpen s e place = false

theorem Gives.atom {a : Atom} {v : Val} (h : atomValue s a = some v) : Gives s (.atom a) v where
  value := fun place => by rw [evalExpr, h, Option.getD_some]
  stated := fun place => by rw [exprOpen, h, Option.isNone_some]

theorem Gives.un {op : UnOp} {e : Expr} {v w : Val} (he : Gives s e v) (hw : unValue s.cfg op v = some w) :
    Gives s (.un op e) w where
  value := fun place => evalExpr_un (he.value _) hw
  stated := fun place => by rw [exprOpen, he.stated, he.value, hw]; rfl

theorem Gives.bin {op : BinOp} {a b : Expr} {v w x : Val} (ha : Gives s a v) (hb : Gives s b w)
    (hx : binValue op v w = some x) : Gives s (.bin op a b) x where
  value := fun place => evalExpr_bin (ha.value _) (hb.value _) hx
  stated := fun place => by rw [exprOpen, ha.stated, hb.stated, ha.value, hb.value, hx]; rfl

theorem gives_num (n : Nat) : Gives s (.num n) (.num n) := .atom rfl

theorem gives_reg (r : Reg) : Gives s (.reg r) (s.readReg r) := .atom rfl

/-- A write of a register leaves the pc alone. -/
theorem put_withPc (s : State) (pc : Pc) (r : Reg) (v : Val) : (s.withPc pc).put r v = (s.put r v).withPc pc := by
  cases r <;> rfl

/-- A SET of one register writes the value of its expression, where that is stated, is one the register can hold, and
depends on nothing unwritten (40_link.md R125). -/
theorem performs_setOne {r : Reg} {e : Expr} {v : Val} (hc : configOk s.cfg = true)
    (hg : ∀ pc, Gives (s.withPc pc) e v) (hk : kindAccepts s.cfg.nDesc r.ty v = true)
    (hr : ∀ q ∈ exprReads e, q ∉ s.unwritten) : Performs true (setOne r e) s (s.put r v) := by
  have hreads : ∀ q ∈ setReads [⟨r, e⟩], q ∉ s.unwritten := by simpa [setReads] using hr
  refine ⟨rfl, fun pc => ?_, fun _ => rfl, hreads⟩
  have hsettles : settles (s.withPc pc) [⟨r, e⟩] r v = true := by simp [settles, hk]
  have hvalue : assignedValue (s.withPc pc) ⟨r, e⟩ 0 = v := (hg pc).value _
  have hwrites : setWrites (s.withPc pc) [⟨r, e⟩] = [(r, v)] := by
    simp [setWrites, writtenValue, hvalue, hsettles]
  have hopen : setOpen (s.withPc pc) [⟨r, e⟩] = false := by
    simp [setOpen, (hg pc).stated, hvalue, hsettles]
  rw [setOne, exec_set_of_written (s := s.withPc pc) hc hreads, hwrites, hopen, countOpen_false, putAll_cons, putAll_nil,
    put_withPc]

/-- The value of a bit vector is one of its kind. -/
theorem kindAccepts_ofBits {w rows : Nat} (b : BitVec w) : kindAccepts rows (.bits w) (.ofBits b) = true :=
  decide_eq_true b.isLt

theorem kindAccepts_flag {rows : Nat} (b : Bool) : kindAccepts rows (.bits 1) (.flag b) = true := by
  cases b <;> rfl

/-! ## The link -/

/-- The polls of a wait: some that go on, then one that ends it (40_link.md R115, R124). -/
theorem microRun_polls {k : Nat} (hc : configOk s.cfg = true) (hd : s.sdoDir = .input) (hw : .wstart ∉ s.unwritten)
    (hg : goesOnFor s k) (he : pollEnds (pollsFrom s k) = true) : MicroRun [.poll] s (pollsFrom s (k + 1)) := by
  have hpoll := performs_poll hc hd hw
  have hstep := linkStep_pollOnce s
  induction k generalizing s with
  | zero =>
    rw [show pollEnds s = true from he] at hpoll
    exact .next hpoll (.nil _)
  | succ k ih =>
    rw [show pollEnds s = false from hg 0 (Nat.succ_pos k)] at hpoll
    have hc' : configOk (pollOnce s).cfg = true := by rwa [hstep.cfg]
    have hd' : (pollOnce s).sdoDir = .input := hstep.sdoDir.trans hd
    have hw' : .wstart ∉ (pollOnce s).unwritten := fun h => hw (hstep.unwrittenShrinks _ h)
    exact .again hpoll (ih hc' hd' hw' (fun j hj => hg (j + 1) (Nat.succ_lt_succ hj)) he
      (performs_poll hc' hd' hw') (linkStep_pollOnce _))

section

variable (hc : configOk s.cfg = true) (hd : s.sdoDir = .input)
include hc hd

/-- WAITRDY (40_link.md R115). -/
theorem microRun_wait : MicroRun expandWait s (waitReady s) := by
  obtain ⟨k, hg, he, heq⟩ := waitReady_eq (pollMin_ne_zero hc)
  have hset : Performs true (setOne .wstart (.atom .now)) s (waitBegun s) :=
    performs_setOne hc (fun _ => .atom rfl) rfl nofun
  rw [heq]
  exact .next hset (microRun_polls (s := waitBegun s) hc hd (by simp) hg he)

/-- The shift step of one frame bit (40_link.md R113). -/
theorem microRun_shiftBit (hacc : .acc ∉ s.unwritten) (j : BitIdx) :
    MicroRun (expandShift s.link.dout s.link.iout j) s (shiftBit j s) := by
  have hset : Performs true (setOne .bidx (.num j.val)) s (s.put .bidx (.index j)) :=
    performs_setOne hc (fun _ => gives_num _) (decide_eq_true j.isLt) nofun
  have hsdi := performs_pin (s := s.put .bidx (.index j)) hc .sdi (s.link.dout.getLsbD j)
  have hsii := performs_pin (s := pin .sdi (s.link.dout.getLsbD j) (s.put .bidx (.index j))) hc .sii
    (s.link.iout.getLsbD j)
  have hsample : Performs true .sample (atSample j s) (sampleIn (atSample j s)) :=
    performs_sample hc hd fun h => hacc (by simpa using h)
  have hrise := performs_pin (s := sampleIn (atSample j s)) hc .sci true
  have hfall := performs_pin (s := pin .sci true (sampleIn (atSample j s))) hc .sci false
  exact .next hset (.next hsdi (.next hsii (.next hsample (.next hrise (.next hfall (.nil _))))))

/-- The shift of some frame bits (40_link.md R113). -/
theorem microRun_shiftBits (hacc : .acc ∉ s.unwritten) (js : List BitIdx) :
    MicroRun (js.flatMap (expandShift s.link.dout s.link.iout)) s (shiftBits js s) := by
  induction js generalizing s with
  | nil => exact .nil s
  | cons j js ih =>
    have hstep := linkStep_shiftBit j s
    have hrest := ih (s := shiftBit j s) (by rwa [hstep.cfg]) (hstep.sdoDir.trans hd)
      (fun h => hacc (hstep.unwrittenShrinks _ h))
    rw [shiftBit_link] at hrest
    exact (microRun_shiftBit hc hd hacc j).append hrest

end

theorem gives_frame (b : Byte) : Gives s (.un .frame (litBits b)) (.ofBits (frameOf s.cfg.widths b)) := by
  have hbyte : b.toNat < 2 ^ 8 := b.isLt
  refine .un (gives_num b.toNat) ((if_pos hbyte).trans ?_)
  rw [BitVec.ofNat_toNat, BitVec.setWidth_eq]

/-- The byte that a transfer returns, as the expression of 40_link.md R126. -/
theorem gives_returnedByte (hc : configOk s.cfg = true) :
    Gives s (.un (.trunc s.cfg.widths.dataBits) (.un (.shr s.cfg.widths.padTrail) (.reg .acc)))
      (.ofBits (returnedByte s.cfg.widths s.link.acc)) := by
  obtain ⟨-, hdata, -⟩ := widths_of_configOk hc
  rw [Val.ofBits, toNat_returnedByte, hdata]
  exact .un (.un (gives_reg .acc) rfl) rfl

/-- The two frames of a transfer, in one SET (40_link.md R126). -/
theorem performs_setFrames (hc : configOk s.cfg = true) (d i : Byte) :
    Performs true (.set [⟨.dout, .un .frame (litBits d)⟩, ⟨.iout, .un .frame (litBits i)⟩]) s
      ((s.put .dout (.ofBits (frameOf s.cfg.widths d))).put .iout (.ofBits (frameOf s.cfg.widths i))) := by
  have hreads : ∀ r ∈ setReads [⟨.dout, .un .frame (litBits d)⟩, ⟨.iout, .un .frame (litBits i)⟩], r ∉ s.unwritten :=
    fun r hr => absurd hr (List.not_mem_nil (a := r))
  refine ⟨rfl, fun pc => ?_, fun _ => rfl, hreads⟩
  have hd := gives_frame (s := s.withPc pc) d
  have hi := gives_frame (s := s.withPc pc) i
  have hkd := kindAccepts_ofBits (rows := s.cfg.nDesc) (frameOf s.cfg.widths d)
  have hki := kindAccepts_ofBits (rows := s.cfg.nDesc) (frameOf s.cfg.widths i)
  rw [withPc_cfg] at hd hi
  rw [exec_set_of_written (s := s.withPc pc) hc hreads]
  have hwrites : setWrites (s.withPc pc) [⟨.dout, .un .frame (litBits d)⟩, ⟨.iout, .un .frame (litBits i)⟩] =
      [(.dout, .ofBits (frameOf s.cfg.widths d)), (.iout, .ofBits (frameOf s.cfg.widths i))] := by
    simp [setWrites, writtenValue, assignedValue, hd.value, hi.value, settles, Reg.ty, hkd, hki]
  have hopen : setOpen (s.withPc pc) [⟨.dout, .un .frame (litBits d)⟩, ⟨.iout, .un .frame (litBits i)⟩] = false := by
    simp [setOpen, assignedValue, hd.value, hi.value, hd.stated, hi.stated, settles, Reg.ty, hkd, hki]
  rw [hwrites, hopen]
  rfl

section

variable (hc : configOk s.cfg = true) (hd : s.sdoDir = .input)
include hc hd

/-- The transfer of one frame pair (40_link.md R126). -/
theorem microRun_transfer (d i : Byte) : MicroRun (expandXfer s.cfg.widths d i) s (transfer d i s) := by
  have hcompose : MicroRun [.set [⟨.dout, .un .frame (litBits d)⟩, ⟨.iout, .un .frame (litBits i)⟩],
      setOne .acc (.num 0)] s (composeFrames d i s) :=
    .next (performs_setFrames hc d i) (.next (performs_setOne hc (fun _ => gives_num 0) rfl nofun) (.nil _))
  have hcomposed := linkStep_composeFrames d i s
  have hwait := microRun_wait (s := composeFrames d i s) (by rwa [hcomposed.cfg]) (hcomposed.sdoDir.trans hd)
  obtain ⟨hcfg, -, hlink, hready⟩ := transferReady_spec (d := d) (i := i) hc
  have hacc : .acc ∉ (transferReady d i s).unwritten := fun h =>
    composeFrames_written d i s .acc (by decide) ((waitReady_linkStep (s := composeFrames d i s)
      (by rw [hcomposed.cfg]; exact pollMin_ne_zero hc)).unwrittenShrinks _ h)
  have hshift : MicroRun ((frameBitOrder s.cfg.widths).flatMap (expandShift (frameOf s.cfg.widths d)
      (frameOf s.cfg.widths i))) (transferReady d i s) (shiftFrames (transferReady d i s)) := by
    have h := microRun_shiftBits (s := transferReady d i s) (by rwa [hcfg]) (hready.sdoDir.trans hd) hacc
      (frameBitOrder s.cfg.widths)
    rw [hlink] at h
    rwa [shiftFrames, hcfg]
  have hshifted := shiftFrames_linkStep (transferReady d i s)
  have hcfg' : (shiftFrames (transferReady d i s)).cfg = s.cfg := hshifted.cfg.trans hcfg
  have hlatch : Performs true (setOne .rbyte (.un (.trunc s.cfg.widths.dataBits)
      (.un (.shr s.cfg.widths.padTrail) (.reg .acc)))) (shiftFrames (transferReady d i s)) (transfer d i s) := by
    rw [← hcfg']
    refine performs_setOne (by rwa [hcfg']) (fun pc => gives_returnedByte (s := (shiftFrames _).withPc pc)
      (by rwa [withPc_cfg, hcfg'])) (kindAccepts_ofBits _) fun q hq => ?_
    rw [List.mem_singleton.1 hq]
    exact fun h => hacc (hshifted.unwrittenShrinks _ h)
  exact ((hcompose.append hwait).append hshift).append (.next hlatch (.nil _))

/-- A sequence of frame pairs (30_encoding.md R86). -/
theorem microRun_transferAll (ps : List FramePair) : MicroRun (expandPairs s.cfg.widths ps) s (transferAll ps s) := by
  induction ps generalizing s with
  | nil => exact .nil s
  | cons p ps ih =>
    have hstep := transfer_linkStep (d := p.sdi) (i := p.sii) hc
    have hrest := ih (s := transfer p.sdi p.sii s) (by rwa [hstep.cfg]) (hstep.sdoDir.trans hd)
    rw [hstep.cfg] at hrest
    exact (microRun_transfer hc hd p.sdi p.sii).append hrest

end

end Sys2Proof.Machine
end

section
/-! The phases run (45_session.md R222 to R224): the list of each phase leads from the state before it to the state that
the session's pseudocode has after it. -/

namespace Sys2Proof.Machine

variable {s t u : State}

/-- What has been written stays so when another register is written. -/
theorem not_mem_put_unwritten {q r : Reg} {v : Val} (h : q ∉ s.unwritten) : q ∉ (s.put r v).unwritten := fun hm =>
  h (List.mem_of_mem_filter (by rwa [put_unwritten] at hm))

/-! ## The records of a byte -/

theorem gives_bit (i : Nat) : Gives s (.un (.bit i) (.reg .rbyte)) (.flag (s.link.rbyte.getLsbD i)) :=
  .un (gives_reg .rbyte) rfl

/-- The lock decode, as an expression (10_state.md R35). -/
theorem gives_locked : Gives s lockedExpr (.flag (isLocked s.link.rbyte)) := by
  refine .un (gives_bit 0) ?_
  simp only [isLocked, lockBit1]
  cases s.link.rbyte.getLsbD 0 <;> rfl

/-- Whether the erase is an escalation, as an expression (45_session.md R227). -/
theorem gives_escalation : Gives s escalationExpr (.flag (isEscalation s.sess.action)) := by
  refine .bin (gives_reg .action) (.atom rfl) ?_
  unfold isEscalation
  show binValue .eq (.action s.sess.action) (.action .writeDefaults) = _
  cases s.sess.action <;> rfl

/-- A SET that reads the byte just returned. -/
theorem performs_ofByte {r : Reg} {e : Expr} {v : Val} (hc : configOk s.cfg = true) (hw : .rbyte ∉ s.unwritten)
    (hg : ∀ pc, Gives (s.withPc pc) e v) (hk : kindAccepts s.cfg.nDesc r.ty v = true) (he : exprReads e = [.rbyte]) :
    Performs true (setOne r e) s (s.put r v) :=
  performs_setOne hc hg hk fun q hq => by
    rw [he, List.mem_singleton] at hq
    rwa [hq]

/-- The record of the byte just returned in a field of the outcome. -/
theorem performs_recordByte {r : Reg} (hr : r.ty = .opt (.bits dataBits)) (hc : configOk s.cfg = true)
    (hw : .rbyte ∉ s.unwritten) : Performs true (setOne r (.reg .rbyte)) s (recordByte r s) :=
  performs_ofByte hc hw (fun _ => gives_reg .rbyte) (by rw [hr]; exact kindAccepts_opt (kindAccepts_ofBits _)) rfl

/-- The classification of `sig`, as an expression (42_identify.md R163). -/
theorem gives_classify :
    Gives s (.un .classify (.reg .sig)) (.device (classifySig s.cfg.desc s.ident.sig)) := by
  have hsig : s.ident.sig.toNat < 2 ^ sigBits := s.ident.sig.isLt
  refine .un (gives_reg .sig) ((if_pos hsig).trans ?_)
  rw [BitVec.ofNat_toNat, BitVec.setWidth_eq]

/-- The classification is a value that `desc` can hold (10_state.md R30). -/
theorem kindAccepts_classifySig (c : Config) (sig : Signature) :
    kindAccepts c.nDesc .device (.device (classifySig c.desc sig)) = true := by
  cases h : classifySig c.desc sig with
  | none => rfl
  | some k => exact decide_eq_true (lt_of_classifySig h)

/-! ## Lists of records -/

/-- A flag is a value of a flag register, and of one that may be absent. -/
theorem kindAccepts_flagOf {r : Reg} {rows : Nat} {f : Bool} (hr : r.ty = .bits 1 ∨ r.ty = .opt (.bits 1)) :
    kindAccepts rows r.ty (.flag f) = true :=
  hr.elim (fun h => h ▸ kindAccepts_flag f) fun h => h ▸ kindAccepts_opt (kindAccepts_flag f)

/-- A SET of `r` that records `v`, which depends on the returned byte `b` alone. -/
structure RecordsByte (b : Byte) (r : Reg) (e : Expr) (v : Val) : Prop where
  gives : ∀ u : State, u.link.rbyte = b → Gives u e v
  reads : exprReads e = [.rbyte]
  kind : ∀ rows, kindAccepts rows r.ty v = true
  other : r ≠ .rbyte

theorem recordsByte_raw {b : Byte} {r : Reg} (hr : r.ty = .opt (.bits dataBits)) (hne : r ≠ .rbyte) :
    RecordsByte b r (.reg .rbyte) (.ofBits b) where
  gives := fun _ hu => hu ▸ gives_reg .rbyte
  reads := rfl
  kind := fun _ => hr ▸ kindAccepts_opt (kindAccepts_ofBits b)
  other := hne

/-- The record of one bit of the byte. -/
theorem recordsByte_bit {b : Byte} {r : Reg} (i : Nat) (hr : r.ty = .bits 1 ∨ r.ty = .opt (.bits 1)) (hne : r ≠ .rbyte) :
    RecordsByte b r (.un (.bit i) (.reg .rbyte)) (.flag (b.getLsbD i)) where
  gives := fun _ hu => hu ▸ gives_bit i
  reads := rfl
  kind := fun _ => kindAccepts_flagOf hr
  other := hne

/-- The record of the lock decode of the byte (10_state.md R35). -/
theorem recordsByte_locked {b : Byte} {r : Reg} (hr : r.ty = .bits 1 ∨ r.ty = .opt (.bits 1)) (hne : r ≠ .rbyte) :
    RecordsByte b r lockedExpr (.flag (isLocked b)) where
  gives := fun _ hu => hu ▸ gives_locked
  reads := rfl
  kind := fun _ => kindAccepts_flagOf hr
  other := hne

/-- Some records of the byte just returned, one after the other. -/
theorem microRun_records {b : Byte} {ws : List (Reg × Expr × Val)} (hc : configOk s.cfg = true)
    (hw : .rbyte ∉ s.unwritten) (hb : s.link.rbyte = b) (h : ∀ w ∈ ws, RecordsByte b w.1 w.2.1 w.2.2) :
    MicroRun (ws.map fun w => setOne w.1 w.2.1) s (s.putAll (ws.map fun w => (w.1, w.2.2))) := by
  induction ws generalizing s with
  | nil => exact .nil s
  | cons w ws ih =>
    obtain ⟨hfirst, hrest⟩ := List.forall_mem_cons.1 h
    have hset : Performs true (setOne w.1 w.2.1) s (s.put w.1 w.2.2) :=
      performs_ofByte hc hw (fun pc => hfirst.gives (s.withPc pc) hb) (hfirst.kind _) hfirst.reads
    have hkept : (s.put w.1 w.2.2).link.rbyte = s.link.rbyte := by
      have hreg := congrArg Val.toByte (readReg_put_other s w.2.2 hfirst.other.symm)
      simpa [State.readReg, Val.toByte] using hreg
    exact .next hset (ih (by rwa [put_cfg]) (not_mem_put_unwritten hw) (hkept.trans hb) hrest)

/-- Some constants, one after the other. -/
theorem microRun_constants {ws : List (Reg × Nat)} (hc : configOk s.cfg = true)
    (h : ∀ w ∈ ws, ∀ rows, kindAccepts rows w.1.ty (.num w.2) = true) :
    MicroRun (ws.map fun w => setOne w.1 (.num w.2)) s (s.putAll (ws.map fun w => (w.1, .num w.2))) := by
  induction ws generalizing s with
  | nil => exact .nil s
  | cons w ws ih =>
    obtain ⟨hfirst, hrest⟩ := List.forall_mem_cons.1 h
    exact .next (performs_setOne hc (fun _ => gives_num w.2) (hfirst _) nofun) (ih (by rwa [put_cfg]) hrest)

/-! ## Lists that follow each other -/

namespace MicroRun

variable {ops : List Instr}

theorem pin (h : MicroRun ops s t) (hc : configOk t.cfg = true) (r : Role) (b : Bool) :
    MicroRun (ops ++ [.pin r b]) s (pin r b t) :=
  h.append (.next (performs_pin hc r b) (.nil _))

theorem dir (h : MicroRun ops s t) (hc : configOk t.cfg = true) (d : Dir) :
    MicroRun (ops ++ [.dir d]) s (setDir d t) :=
  h.append (.next (performs_dir hc d) (.nil _))

theorem delay (h : MicroRun ops s t) (hc : configOk t.cfg = true) (p : TimeParam) :
    MicroRun (ops ++ [.delay p]) s (delay p t) :=
  h.append (.next (performs_delay hc p) (.nil _))

end MicroRun

/-- The micro-operations `ops` lead from `s` to `t`, which takes samples under the same configuration. -/
structure Follows (ops : List Instr) (s t : State) : Prop where
  run : MicroRun ops s t
  cfg : t.cfg = s.cfg
  sdoDir : t.sdoDir = .input

namespace Follows

variable {ops tail : List Instr}

theorem refl (hd : s.sdoDir = .input) : Follows [] s s := ⟨.nil s, rfl, hd⟩

/-- Register writes follow. -/
theorem writes {ws : List (Reg × Val)} (h : Follows ops s t) (hm : MicroRun tail t (t.putAll ws)) :
    Follows (ops ++ tail) s (t.putAll ws) :=
  ⟨h.run.append hm, (putAll_cfg t ws).trans h.cfg, (putAll_sdoDir t ws).trans h.sdoDir⟩

/-- An operation of the link follows. -/
theorem link (h : Follows ops s t) (hs : LinkStep t u) (hm : MicroRun tail t u) : Follows (ops ++ tail) s u :=
  ⟨h.run.append hm, hs.cfg.trans h.cfg, hs.sdoDir.trans h.sdoDir⟩

section

variable (hc : configOk s.cfg = true)
include hc

theorem valid (h : Follows ops s t) : configOk t.cfg = true := by rwa [h.cfg]

theorem pairs (h : Follows ops s t) (ps : List FramePair) :
    Follows (ops ++ expandPairs s.cfg.widths ps) s (transferAll ps t) := by
  rw [← h.cfg]
  exact h.link (transferAll_linkStep (h.valid hc)) (microRun_transferAll (h.valid hc) h.sdoDir ps)

theorem wait (h : Follows ops s t) : Follows (ops ++ expandWait) s (waitReady t) :=
  h.link (waitReady_linkStep (pollMin_ne_zero (h.valid hc))) (microRun_wait (h.valid hc) h.sdoDir)

/-- RDLK (43_fuse_lock.md R184). -/
theorem readLock (h : Follows ops s t) : Follows (ops ++ expandRdlk s.cfg) s (readLock t) := by
  rw [Machine.readLock, h.cfg, expandRdlk, ← List.append_assoc]
  exact (h.pairs hc _).wait hc

/-- A fuse write (43_fuse_lock.md R185). -/
theorem writeFuse (h : Follows ops s t) (x : FuseSel) (v : Byte) :
    Follows (ops ++ expandPairs s.cfg.widths (s.cfg.writePairs x v)) s (writeFuse x v t) := by
  rw [Machine.writeFuse, h.cfg]
  exact h.pairs hc _

/-- A fuse read and its record. -/
theorem readFuse (h : Follows ops s t) (x : FuseSel) {r : Reg} (hr : r.ty = .opt (.bits dataBits)) :
    Follows (ops ++ readFuseList s.cfg x r) s (recordByte r (readFuse x t)) := by
  have hlen := Laws.length_readPairs hc x
  have hne : s.cfg.readPairs x ≠ [] := List.ne_nil_of_length_eq_add_one hlen
  rw [Machine.readFuse, h.cfg, readFuseList, ← List.append_assoc]
  have hread := h.pairs hc (s.cfg.readPairs x)
  exact hread.writes (ws := [(r, _)]) (.next (performs_recordByte hr (hread.valid hc)
    (transferAll_written (h.valid hc) hne .rbyte (by decide))) (.nil _))

/-- The fuse reads of a descriptor (45_session.md R226, R230). -/
theorem readFuses (h : Follows ops s t) (d : Descriptor) {l hi e : Reg} (hl : l.ty = .opt (.bits dataBits))
    (hh : hi.ty = .opt (.bits dataBits)) (he : e.ty = .opt (.bits dataBits)) :
    Follows (ops ++ readFusesList s.cfg d l hi e) s (readFuses d l hi e t) := by
  have both := (h.readFuse hc .low hl).readFuse hc .high hh
  unfold readFusesList Machine.readFuses
  rw [← List.append_assoc, ← List.append_assoc]
  dsimp only
  split
  · exact both.readFuse hc .ext he
  · rwa [List.append_nil]

end

end Follows

section

variable (hc : configOk s.cfg = true)
include hc

/-- RDLK leaves the byte it returned. -/
theorem rbyte_written_readLock : .rbyte ∉ (readLock s).unwritten := fun h => by
  have hlen := Laws.length_lockPairs hc
  have hcfg := (transferAll_linkStep (ps := s.cfg.lockPairs) hc).cfg
  have hwait := waitReady_linkStep (s := transferAll s.cfg.lockPairs s) (by rw [hcfg]; exact pollMin_ne_zero hc)
  exact transferAll_written hc (List.ne_nil_of_length_eq_add_one hlen) .rbyte (by decide) (hwait.unwrittenShrinks _ h)

/-- ENTER (41_power.md R141). -/
theorem microRun_enterMode : MicroRun expandEnter s (enterMode s) := by
  have hlow := (((MicroRun.nil s).pin hc .sdi false).pin hc .sii false).pin hc .sdoOut false
  have hpowered := (((hlow.dir hc .output).pin hc .rst true).pin hc .vcc true).delay hc .vccSettle
  exact (((hpowered.pin hc .rst false).delay hc .hvSettle).dir hc .input).delay hc .pmStable

/-- P_EXIT: EXIT, then the outcome is published (45_session.md R222, R232). -/
theorem microRun_exitList : MicroRun exitList s ((exitMode s).put .oValid (.flag true)) := by
  have hexit := (((MicroRun.nil s).pin hc .sci false).pin hc .vcc false).pin hc .rst true
  exact hexit.append (.next (performs_setOne (s := exitMode s) hc (fun _ => gives_num 1) rfl nofun) (.nil _))

/-! ## P_IDENT -/

/-- CLASSIFY, and the two records of P_IDENT (45_session.md R222, R225). -/
theorem microRun_classified (hsig : .sig ∉ s.unwritten) :
    MicroRun [setOne .desc (.un .classify (.reg .sig)), setOne .oSignature (.reg .sig), setOne .oDevice (.reg .desc)] s
      ((classify s.ident.sig s).putAll [(.oSignature, .ofBits s.ident.sig),
        (.oDevice, .device (classify s.ident.sig s).ident.desc)]) := by
  have hkind := kindAccepts_classifySig s.cfg s.ident.sig
  have hdesc : (classify s.ident.sig s).ident.desc = classifySig s.cfg.desc s.ident.sig := toDevice_device _
  have hclassify : Performs true (setOne .desc (.un .classify (.reg .sig))) s (classify s.ident.sig s) :=
    performs_setOne hc (fun pc => gives_classify (s := s.withPc pc)) hkind fun q hq => by
      rwa [List.mem_singleton.1 hq]
  have hsignature := performs_setOne (s := classify s.ident.sig s) (r := .oSignature) hc (fun _ => gives_reg .sig)
    (kindAccepts_opt (kindAccepts_ofBits _)) fun q hq => by
      rw [List.mem_singleton.1 hq]
      exact not_mem_put_unwritten hsig
  have hdevice : Performs true (setOne .oDevice (.reg .desc)) ((classify s.ident.sig s).put .oSignature
      (.ofBits s.ident.sig)) (((classify s.ident.sig s).put .oSignature (.ofBits s.ident.sig)).put .oDevice
        (.device (classify s.ident.sig s).ident.desc)) :=
    performs_setOne hc (fun _ => gives_reg .desc) (by rw [hdesc]; exact kindAccepts_opt hkind) fun q hq => by
      rw [List.mem_singleton.1 hq]
      exact not_mem_put_unwritten (by simp [classify])
  exact .next hclassify (.next hsignature (.next hdevice (.nil _)))

/-- Whether an erase is an escalation, kept in its flag (45_session.md R227). -/
theorem microRun_escalation (ha : .action ∉ s.unwritten) :
    MicroRun [setOne .escalated escalationExpr] s (s.put .escalated (.flag (isEscalation s.sess.action))) :=
  .next (performs_setOne hc (fun _ => gives_escalation) (kindAccepts_flag _) fun q hq => by
    rwa [List.mem_singleton.1 hq]) (.nil _)

/-- The record of that flag. -/
theorem microRun_recordEscalated (hw : .escalated ∉ s.unwritten) :
    MicroRun [setOne .oEscalated (.reg .escalated)] s (s.put .oEscalated (.flag s.sess.escalated)) :=
  .next (performs_setOne hc (fun _ => gives_reg .escalated) (kindAccepts_flag _) fun q hq => by
    rwa [List.mem_singleton.1 hq]) (.nil _)

/-- A flag register set to one. -/
theorem microRun_setFlag {r : Reg} (hr : ∀ rows, kindAccepts rows r.ty (.num 1) = true) :
    MicroRun [setOne r (.num 1)] s (s.put r (.flag true)) :=
  .next (performs_setOne hc (fun _ => gives_num 1) (hr _) nofun) (.nil _)

/-- The flags of P_ERASE and their records (45_session.md R222, R227). -/
theorem microRun_eraseRecords (ha : .action ∉ s.unwritten) :
    MicroRun [setOne .erased (.num 1), setOne .escalated escalationExpr, setOne .oErased (.num 1),
        setOne .oEscalated (.reg .escalated)] s
      (s.putAll [(.erased, .flag true), (.escalated, .flag (isEscalation s.sess.action)), (.oErased, .flag true),
        (.oEscalated, .flag (isEscalation s.sess.action))]) := by
  have herased := microRun_setFlag hc (r := .erased) fun _ => rfl
  have hescalated := microRun_escalation (s := s.put .erased (.flag true)) (by rwa [put_cfg])
    (not_mem_put_unwritten ha)
  simp only [put_erased_sess] at hescalated
  have hflag : ((s.put .erased (.flag true)).put .escalated (.flag (isEscalation s.sess.action))).sess.escalated =
      isEscalation s.sess.action := toFlag_flag _
  have hwritten : .escalated ∉ ((s.put .erased (.flag true)).put .escalated
      (.flag (isEscalation s.sess.action))).unwritten := by simp
  have hcfg : ((s.put .erased (.flag true)).put .escalated (.flag (isEscalation s.sess.action))).cfg = s.cfg := by
    rw [put_cfg, put_cfg]
  simp only [putAll_cons, putAll_nil]
  generalize (s.put .erased (.flag true)).put .escalated (.flag (isEscalation s.sess.action)) = t at *
  have hrecord := microRun_recordEscalated (s := t.put .oErased (.flag true)) (by rwa [put_cfg, hcfg])
    (not_mem_put_unwritten hwritten)
  rw [put_oErased_sess, hflag] at hrecord
  exact herased.append (hescalated.append ((microRun_setFlag (by rwa [hcfg]) fun _ => rfl).append hrecord))

variable (hd : s.sdoDir = .input)
include hd

/-- One signature byte and its addition to `sig` (30_encoding.md R98, 42_identify.md R161). -/
theorem microRun_addSigByte (hsig : .sig ∉ s.unwritten) (idx : Byte) :
    MicroRun (expandPairs s.cfg.widths (s.cfg.rdsbPairs idx) ++ [expandAccumulate s.cfg.widths]) s
      (addSigByte idx s) := by
  obtain ⟨-, hdata, hsigBits, -⟩ := widths_of_configOk hc
  have hread := readSigByte_linkStep hc idx
  have hgives (pc : Pc) : Gives ((readSigByte idx s).withPc pc) (.un (.trunc s.cfg.widths.sigBits)
      (.bin .add (.un (.shl s.cfg.widths.dataBits) (.reg .sig)) (.reg .rbyte)))
      (.ofBits (appendSig (readSigByte idx s).cfg.widths (readSigByte idx s).ident.sig
        (readSigByte idx s).link.rbyte)) := by
    rw [Val.ofBits, toNat_appendSig (by rwa [hread.cfg]), hdata, hsigBits]
    exact .un (.bin (.un (gives_reg .sig) rfl) (gives_reg .rbyte) rfl) rfl
  refine (microRun_transferAll hc hd _).append (.next (performs_setOne (s := readSigByte idx s) (by rwa [hread.cfg])
    hgives (kindAccepts_ofBits _) fun q hq => ?_) (.nil _))
  have hq' : q = .sig ∨ q = .rbyte := by simpa [exprReads, atomReads] using hq
  rcases hq' with rfl | rfl
  · exact fun h => hsig (hread.unwrittenShrinks _ h)
  · exact readSigByte_written hc idx .rbyte (by decide)

/-- P_IDENT (45_session.md R222, R225). -/
theorem microRun_identPhase : MicroRun (identList s.cfg) s (identPhase s) := by
  have hclear : Performs true (setOne .sig (.num 0)) s (s.put .sig (.num 0)) :=
    performs_setOne hc (fun _ => gives_num 0) rfl nofun
  have hfirst : MicroRun _ (s.put .sig (.num 0)) (firstSigByte s) :=
    microRun_addSigByte (s := s.put .sig (.num 0)) hc hd (by simp) s.cfg.sigIndices.first
  have hcfg := firstSigByte_cfg hc
  have hdir : (firstSigByte s).sdoDir = s.sdoDir := by
    have h := (addSigByte_linkStep (cleared_configOk hc) s.cfg.sigIndices.first (.num 0)).sdoDir
    rwa [put_sdoDir, put_sdoDir, put_sdoDir] at h
  have hsecond : MicroRun _ (firstSigByte s) (readSignature s) :=
    microRun_addSigByte (s := firstSigByte s) (by rwa [hcfg]) (hdir.trans hd)
      (addSigByte_written (cleared_configOk hc) _ .sig (by decide)) s.cfg.sigIndices.second
  rw [hcfg] at hsecond
  have hsig := readSignature_written hc .sig (by decide)
  have hcfg' : (readSignature s).cfg = s.cfg := by
    simpa only [put_cfg] using (readSignature_linkStep hc (.num 0)).cfg
  rw [identList_eq]
  exact .next hclear (hfirst.append (hsecond.append (microRun_classified (by rwa [hcfg']) hsig)))

/-! ## P_READ, P_ERASE, P_WRITE and P_VERIFY -/

/-- P_READ (45_session.md R222, R226). -/
theorem microRun_readPhase (d : Descriptor) : MicroRun (readList s.cfg d) s (readPhase d s) := by
  have hfuses := (Follows.refl hd).readFuses hc d (l := .oFuseL0) (hi := .oFuseH0) (e := .oFuseE0) rfl rfl rfl
  have hread := hfuses.readLock hc
  refine hread.run.append (microRun_records (ws := [(.oLockRaw0, .reg .rbyte, _), (.oLb1, .un (.bit 0) (.reg .rbyte), _),
    (.oLb2, .un (.bit 1) (.reg .rbyte), _), (.locked0, lockedExpr, _), (.oLocked0, lockedExpr, _)]) (hread.valid hc)
    (rbyte_written_readLock (hfuses.valid hc)) rfl ?_)
  intro w hw
  simp only [List.mem_cons, List.not_mem_nil, or_false] at hw
  rcases hw with rfl | rfl | rfl | rfl | rfl
  · exact recordsByte_raw rfl nofun
  · exact recordsByte_bit 0 (.inr rfl) nofun
  · exact recordsByte_bit 1 (.inr rfl) nofun
  · exact recordsByte_locked (.inl rfl) nofun
  · exact recordsByte_locked (.inr rfl) nofun

/-- P_WRITE (45_session.md R222, R228). -/
theorem microRun_writePhase (d : Descriptor) : MicroRun (writeList s.cfg d) s (writePhase d s) := by
  have hlow := (Follows.refl hd).writeFuse hc .low d.lfuseDef
  have hhigh := hlow.writeFuse hc .high d.hfuseDef
  have hkind (w : Reg × Nat) (hw : w ∈ [(Reg.wrote, 1), (.oWrote, 1), (.oWrittenL, d.lfuseDef.toNat),
      (.oWrittenH, d.hfuseDef.toNat)]) (rows : Nat) : kindAccepts rows w.1.ty (.num w.2) = true := by
    simp only [List.mem_cons, List.not_mem_nil, or_false] at hw
    rcases hw with rfl | rfl | rfl | rfl
    · rfl
    · rfl
    · exact kindAccepts_opt (kindAccepts_ofBits d.lfuseDef)
    · exact kindAccepts_opt (kindAccepts_ofBits d.hfuseDef)
  unfold writeList writePhase
  cases d.efuseDef with
  | none =>
    dsimp only
    rw [List.append_nil, List.append_nil]
    exact hhigh.run.append (microRun_constants (hhigh.valid hc) hkind)
  | some e =>
    have hext := hhigh.writeFuse hc .ext e
    dsimp only
    generalize Machine.writeFuse .ext e _ = u at hext ⊢
    have hlast (w : Reg × Nat) (hw : w ∈ [(Reg.oWrittenE, e.toNat)]) (rows : Nat) :
        kindAccepts rows w.1.ty (.num w.2) = true :=
      List.mem_singleton.1 hw ▸ kindAccepts_opt (kindAccepts_ofBits e)
    have hrecorded := (microRun_constants (hext.valid hc) hkind).append (microRun_constants
      (by rw [putAll_cfg]; exact hext.valid hc) hlast)
    rw [← putAll_append] at hrecorded
    rw [List.append_assoc]
    exact hext.run.append hrecorded

/-- P_VERIFY (45_session.md R222, R230, R231). -/
theorem microRun_verifyPhase (d : Descriptor) :
    MicroRun (verifyList s.cfg d s.sess.erased) s (verifyPhase d s) := by
  have hfuses := (Follows.refl hd).readFuses hc d (l := .oFuseL1) (hi := .oFuseH1) (e := .oFuseE1) rfl rfl rfl
  have herased : (readFuses d .oFuseL1 .oFuseH1 .oFuseE1 s).sess.erased = s.sess.erased := by
    have hran := (LinkRan.refl s).readFuses hc (d := d) (l := .oFuseL1) (hi := .oFuseH1) (e := .oFuseE1) (by decide)
      (by decide) (by decide)
    exact congrArg SessionPath.erased hran.path
  unfold verifyList verifyPhase
  dsimp only
  rw [herased]
  cases s.sess.erased with
  | false => exact hfuses.run.append (.nil _)
  | true =>
    have hread := hfuses.readLock hc
    rw [if_pos rfl, if_pos rfl, ← List.append_assoc]
    exact hread.run.append (microRun_records (ws := [(.oLockRaw1, .reg .rbyte, _), (.oLocked1, lockedExpr, _)])
      (hread.valid hc) (rbyte_written_readLock (hfuses.valid hc)) rfl
      (List.forall_mem_cons.2 ⟨recordsByte_raw rfl nofun, List.forall_mem_singleton.2
        (recordsByte_locked (.inr rfl) nofun)⟩))

/-- P_ERASE (45_session.md R222, R229). -/
theorem microRun_erasePhase (ha : .action ∉ s.unwritten) : MicroRun (eraseList s.cfg) s (erasePhase s) := by
  have herase := ((Follows.refl hd).pairs hc s.cfg.erasePairs).wait hc
  have hwait := waitReady_linkStep (s := transferAll s.cfg.erasePairs s)
    (by rw [(transferAll_linkStep hc).cfg]; exact pollMin_ne_zero hc)
  have haction : .action ∉ (eraseChip s).unwritten := fun h =>
    ha ((transferAll_linkStep hc).unwrittenShrinks _ (hwait.unwrittenShrinks _ h))
  exact herase.run.append (microRun_eraseRecords (herase.valid hc) haction)

end

end Sys2Proof.Machine
end

section
/-! The sequencer refines the pseudocode (45_session.md R222, R224, R233): the steps of the engine run the list of a
phase and take its exit transition, and the phases in their order make the session. -/

namespace Sys2Proof.Machine

variable {s t u : State}

/-! ## What a list of micro-operations does -/

/-- Only a POLL can go on (10_state.md R31, 40_link.md R124). -/
theorem eq_poll_of_microEnds {i : Instr} (h : microEnds i s = false) : i = .poll := by
  by_contra hne
  rw [microEnds, if_neg hne] at h
  cases h

/-- What a run of micro-operations does to everything but the values of the registers, the time and the trace. -/
structure RunEffect (ops : List Instr) (s t : State) : Prop where
  cfg : t.cfg = s.cfg
  host : t.host = s.host
  issue : t.issue = s.issue
  pins : t.pins = linesAfter s.pins ops
  sdoDir : t.sdoDir = dirAfter s.sdoDir ops
  unwritten : t.unwritten ⊆ unwrittenAfter s.unwritten ops
  recorded : t.readUnwritten = s.readUnwritten

theorem Performs.runEffect {done : Bool} {i : Instr} (h : Performs done i s t) : RunEffect [i] s t :=
  have he := h.effect
  ⟨he.cfg, he.host, he.issue, he.pins, he.sdoDir, he.unwritten, he.recorded h.reads⟩

theorem RunEffect.trans {a b : List Instr} (ha : RunEffect a s t) (hb : RunEffect b t u) : RunEffect (a ++ b) s u where
  cfg := hb.cfg.trans ha.cfg
  host := hb.host.trans ha.host
  issue := hb.issue.trans ha.issue
  pins := by rw [hb.pins, ha.pins, linesAfter_append]
  sdoDir := by rw [hb.sdoDir, ha.sdoDir, dirAfter_append]
  unwritten := by
    rw [unwrittenAfter_append]
    exact List.Subset.trans hb.unwritten (unwrittenAfter_mono ha.unwritten b)
  recorded := hb.recorded.trans ha.recorded

/-- A POLL that goes on makes no difference to what the list does. -/
theorem RunEffect.again {i : Instr} {ops : List Instr} (h : Performs false i s t) (hr : RunEffect (i :: ops) t u) :
    RunEffect (i :: ops) s u := by
  have hall := h.runEffect.trans hr
  obtain rfl := eq_poll_of_microEnds (h.ends s.pc)
  refine ⟨hall.cfg, hall.host, hall.issue, hall.pins, hall.sdoDir, fun r hu => ?_, hall.recorded⟩
  have hmem := mem_unwrittenAfter.1 (hall.unwritten hu)
  exact mem_unwrittenAfter.2 ⟨hmem.1, fun j hj => hmem.2 j (List.mem_append_right _ hj)⟩

theorem MicroRun.effect {ops : List Instr} (h : MicroRun ops s t) : RunEffect ops s t := by
  induction h with
  | nil s => exact ⟨rfl, rfl, rfl, rfl, rfl, List.Subset.refl _, rfl⟩
  | next h _ ih => exact h.runEffect.trans ih
  | again h _ ih => exact .again h ih

theorem Performs.readReg {done : Bool} {i : Instr} {q : Reg} (h : Performs done i s t) (hq : spares q i = true) :
    t.readReg q = s.readReg q :=
  (readReg_of_spares hq (h.runs s.pc) :)

/-- A register that no micro-operation of the list writes is as before (40_link.md R126). -/
theorem MicroRun.readReg {ops : List Instr} {q : Reg} (h : MicroRun ops s t) (hq : ops.all (spares q) = true) :
    t.readReg q = s.readReg q := by
  induction h with
  | nil s => rfl
  | next h _ ih =>
    obtain ⟨hi, hops⟩ := (Bool.and_eq_true _ _).mp hq
    exact (ih hops).trans (h.readReg hi)
  | again h _ ih => exact (ih hq).trans (h.readReg ((Bool.and_eq_true _ _).mp hq).1)

/-! ## The steps of a phase -/

/-- What the steps of phase `p` need of the state (45_session.md R224). -/
structure InPhase (p : Phase) (s : State) : Prop where
  valid : configOk s.cfg = true
  active : p ≠ .idle
  row : p ∈ rowPhases → HasRow s
  written : ∀ r ∈ phaseReads p, r ∉ s.unwritten

/-- A phase that works on a row of `DESC` leaves `desc` alone. -/
theorem phaseList_spares_desc {p : Phase} (hp : p ∈ rowPhases) (c : Config) (d : Descriptor) (erased : Bool) :
    (phaseList p c d erased).all (spares .desc) = true :=
  phaseList_spares (by decide) (by revert p; decide) c d erased

theorem desc_of_readReg (h : t.readReg .desc = s.readReg .desc) : t.ident.desc = s.ident.desc := by
  have hdesc := congrArg Val.toDevice h
  simpa only [State.readReg, toDevice_device] using hdesc

theorem hasRow_of_same (hcfg : t.cfg = s.cfg) (hdesc : t.ident.desc = s.ident.desc) (h : HasRow s) : HasRow t := by
  rwa [HasRow, hcfg, hdesc]

section

variable {p : Phase} {i : Instr} {done : Bool} (hp : InPhase p s)
include hp

/-- A micro-operation of the phase stays in it. -/
theorem InPhase.performs (hi : i ∈ uprog p s) (h : Performs done i s t) : InPhase p t where
  valid := h.runEffect.cfg ▸ hp.valid
  active := hp.active
  row := fun hrow => hasRow_of_same h.runEffect.cfg
    (desc_of_readReg (h.readReg (List.all_eq_true.1 (phaseList_spares_desc hrow _ _ _) i hi))) (hp.row hrow)
  written := fun r hr hu => hp.written r hr (mem_unwrittenAfter.1 (h.runEffect.unwritten hu)).1

theorem InPhase.step_eq (ht : s.host.trigger = false) (k : Nat) :
    step (s.withPc ⟨p, k⟩) = stepPhase p (s.withPc ⟨p, k⟩) := by
  rw [step_of_phase (s := s.withPc ⟨p, k⟩) hp.valid hp.active, dropTrigger_of_none (s := s.withPc ⟨p, k⟩) ht]
  rfl

/-- The step that runs a micro-operation of the phase. -/
theorem InPhase.step_of_op {k : Nat} (ht : s.host.trigger = false) (hi : (uprog p s)[k]? = some i)
    (h : Performs done i s t) : step (s.withPc ⟨p, k⟩) = .next (t.withPc ⟨p, if done then k + 1 else k⟩) := by
  have hnote : noteReads (phaseReads p) (s.withPc ⟨p, k⟩) = s.withPc ⟨p, k⟩ := noteReads_of_written hp.written
  have hop := stepPhase_of_op (s := s.withPc ⟨p, k⟩) hi (by rw [hnote]; exact h.runs ⟨p, k⟩)
  rw [hp.step_eq ht, hop, hnote, h.ends]
  rfl

/-- The exit transition of the phase. -/
theorem InPhase.step_of_end (ht : s.host.trigger = false) (hx : ∀ r ∈ exitReads p, r ∉ s.unwritten) :
    step (s.withPc ⟨p, (uprog p s).length⟩) = .next (s.withPc ⟨nextPhase s p, 0⟩) := by
  have hend := stepPhase_of_end (p := p) (s := s.withPc ⟨p, (uprog p s).length⟩) (le_refl _)
  have hreads : ∀ r ∈ phaseReads p ++ exitReads p, r ∉ s.unwritten := fun r hr =>
    (List.mem_append.1 hr).elim (hp.written r) (hx r)
  rw [hp.step_eq ht, hend, noteReads_of_written (s := s.withPc ⟨p, (uprog p s).length⟩) hreads]
  rfl

end

/-- Some steps of the engine lead from one state to another. -/
abbrev Reaches : State → State → Prop := Relation.ReflTransGen fun s t => step s = .next t

/-- Some steps are a run of the machine. -/
theorem exists_run_of_reaches (h : Reaches s t) : ∃ n, Sys2Proof.core.run n s = .next t := by
  induction h using Relation.ReflTransGen.head_induction_on with
  | refl => exact ⟨0, rfl⟩
  | @head a b hstep _ ih =>
    obtain ⟨n, hn⟩ := ih
    have hcore : Sys2Proof.core.step a = .next b := hstep
    exact ⟨n + 1, by simp only [Host.Core.run, hcore, hn]⟩

/-- The steps through a part of the phase's list. -/
theorem InPhase.reaches {p : Phase} {ops pre post : List Instr} (hp : InPhase p s) (ht : s.host.trigger = false)
    (hm : MicroRun ops s t) (hlist : uprog p s = pre ++ ops ++ post) :
    Reaches (s.withPc ⟨p, pre.length⟩) (t.withPc ⟨p, (pre ++ ops).length⟩) ∧ InPhase p t ∧ uprog p t = uprog p s := by
  have hfirst {s t : State} {i : Instr} {ops pre post : List Instr} {done : Bool} (h : Performs done i s t)
      (hp : InPhase p s) (ht : s.host.trigger = false) (hlist : uprog p s = pre ++ i :: ops ++ post) :
      step (s.withPc ⟨p, pre.length⟩) = .next (t.withPc ⟨p, if done then pre.length + 1 else pre.length⟩) ∧
        InPhase p t ∧ t.host.trigger = false ∧ uprog p t = uprog p s := by
    have hi : (uprog p s)[pre.length]? = some i := by simp [hlist]
    have hmem := List.mem_of_getElem? hi
    have hsame : uprog p t = uprog p s := uprog_of_exec (t := t.withPc s.pc) hp.row hmem (h.runs s.pc)
    exact ⟨hp.step_of_op ht hi h, hp.performs hmem h, h.runEffect.host ▸ ht, hsame⟩
  induction hm generalizing pre with
  | nil s =>
    rw [List.append_nil]
    exact ⟨.refl, hp, rfl⟩
  | @next i ops s t u h _ ih =>
    obtain ⟨hstep, hp', ht', hsame⟩ := hfirst h hp ht hlist
    obtain ⟨hrest, hend, hsame'⟩ := ih (pre := pre ++ [i]) hp' ht' (by rw [hsame, hlist]; simp)
    rw [List.append_assoc, List.length_append] at hrest
    exact ⟨.head hstep hrest, hend, hsame'.trans hsame⟩
  | again h _ ih =>
    obtain ⟨hstep, hp', ht', hsame⟩ := hfirst h hp ht hlist
    obtain ⟨hrest, hend, hsame'⟩ := ih hp' ht' (hsame.trans hlist)
    exact ⟨.head hstep hrest, hend, hsame'.trans hsame⟩

/-! ## Phases one after the other -/

/-- The list of phase `p` leads from `s` to `t`, where its exit transition can be taken (45_session.md R223, R224). -/
structure PhaseRun (p : Phase) (s t : State) : Prop where
  inPhase : InPhase p s
  run : MicroRun (uprog p s) s t
  exits : ∀ r ∈ exitReads p, r ∉ t.unwritten

theorem PhaseRun.reaches {p : Phase} (h : PhaseRun p s t) (ht : s.host.trigger = false) :
    Reaches (s.withPc ⟨p, 0⟩) (t.withPc ⟨nextPhase t p, 0⟩) := by
  obtain ⟨hlist, hend, hsame⟩ := h.inPhase.reaches ht h.run (pre := []) (post := []) (by simp)
  rw [List.nil_append, ← hsame] at hlist
  exact hlist.tail (hend.step_of_end (h.run.effect.host ▸ ht) h.exits)

/-- From the beginning of phase `p` in `s` the phases run, one after the other, to that of `q` in `t`
(45_session.md R223). -/
inductive PhasesRun (p : Phase) (s : State) : Phase → State → Prop
  | refl : PhasesRun p s p s
  | tail {q : Phase} {t u : State} (h : PhasesRun p s q t) (hq : PhaseRun q t u) : PhasesRun p s (nextPhase u q) u

theorem PhasesRun.trans {p q r : Phase} (h : PhasesRun p s q t) (h' : PhasesRun q t r u) : PhasesRun p s r u := by
  induction h' with
  | refl => exact h
  | tail _ hq ih => exact .tail ih hq

/-- The next phase, when it is known. -/
theorem PhasesRun.step {p q r : Phase} (h : PhasesRun p s q t) (hq : PhaseRun q t u) (hr : nextPhase u q = r) :
    PhasesRun p s r u :=
  hr ▸ h.tail hq

/-- The phases do what their micro-operations do. -/
theorem PhasesRun.effect {p q : Phase} (h : PhasesRun p s q t) : ∃ ops, RunEffect ops s t := by
  induction h with
  | refl => exact ⟨[], (MicroRun.nil s).effect⟩
  | tail _ hq ih =>
    obtain ⟨ops, hops⟩ := ih
    exact ⟨_, hops.trans hq.run.effect⟩

theorem PhasesRun.reaches {p q : Phase} (h : PhasesRun p s q t) (ht : s.host.trigger = false) :
    Reaches (s.withPc ⟨p, 0⟩) (t.withPc ⟨q, 0⟩) := by
  induction h with
  | refl => exact .refl
  | tail h' hq ih =>
    obtain ⟨_, heffect⟩ := h'.effect
    exact ih.trans (hq.reaches (heffect.host ▸ ht))

/-! ## The phases that work on a row -/

/-- A state on entry to a phase that works on the row `d`: P_IDENT has run (45_session.md R222, R223). -/
structure Working (d : Descriptor) (s : State) : Prop where
  valid : configOk s.cfg = true
  row : HasRow s
  same : s.row = d
  sdoDir : s.sdoDir = .input
  written : ∀ r ∈ s.unwritten, r = .wres

theorem phaseReads_ne_wres (p : Phase) : ∀ r ∈ phaseReads p ++ exitReads p, r ≠ .wres := by
  cases p <;> decide

/-- A phase that works on a row leads to a state that does. -/
theorem Working.phaseRun {p : Phase} {d : Descriptor} (hw : Working d s) (hp : p ∈ rowPhases)
    (hm : MicroRun (phaseList p s.cfg d s.sess.erased) s t) : PhaseRun p s t ∧ Working d t := by
  have heffect := hm.effect
  have hwritten : ∀ r ∈ t.unwritten, r = .wres := fun r hr =>
    hw.written r (mem_unwrittenAfter.1 (heffect.unwritten hr)).1
  have hdesc := desc_of_readReg (hm.readReg (phaseList_spares_desc hp _ _ _))
  have hne := phaseReads_ne_wres p
  obtain ⟨hidle, henter⟩ : p ≠ .idle ∧ p ≠ .pEnter := by
    constructor <;> (rintro rfl; revert hp; decide)
  refine ⟨⟨⟨hw.valid, hidle, fun _ => hw.row, ?_⟩, ?_, ?_⟩, ⟨?_, hasRow_of_same heffect.cfg hdesc hw.row,
    (row_of_same_desc heffect.cfg hdesc hw.row).trans hw.same, ?_, hwritten⟩⟩
  · exact fun r hr hu => hne r (List.mem_append_left _ hr) (hw.written r hu)
  · rwa [uprog, hw.same]
  · exact fun r hr hu => hne r (List.mem_append_right _ hr) (hwritten r hu)
  · rw [heffect.cfg]
    exact hw.valid
  · rw [heffect.sdoDir, hw.sdoDir, dirAfter_of_keepsDir (phaseList_keepsDir henter _ _ _)]

section

variable {d : Descriptor} (hw : Working d s)
include hw

theorem Working.readPhase : PhaseRun .pRead s (readPhase d s) ∧ Working d (readPhase d s) :=
  hw.phaseRun (by decide) (microRun_readPhase hw.valid hw.sdoDir d)

theorem Working.erasePhase : PhaseRun .pErase s (erasePhase s) ∧ Working d (erasePhase s) :=
  hw.phaseRun (by decide) (microRun_erasePhase hw.valid hw.sdoDir fun h => nomatch hw.written _ h)

theorem Working.writePhase : PhaseRun .pWrite s (writePhase d s) ∧ Working d (writePhase d s) :=
  hw.phaseRun (by decide) (microRun_writePhase hw.valid hw.sdoDir d)

theorem Working.verifyPhase : PhaseRun .pVerify s (verifyPhase d s) ∧ Working d (verifyPhase d s) :=
  hw.phaseRun (by decide) (microRun_verifyPhase hw.valid hw.sdoDir d)

/-- P_WRITE and P_VERIFY (45_session.md R223). -/
theorem Working.writes {p : Phase} (h : PhasesRun p t .pWrite s) :
    PhasesRun p t .pExit (Machine.verifyPhase d (Machine.writePhase d s)) := by
  obtain ⟨hwrite, hw'⟩ := hw.writePhase
  exact (h.step hwrite rfl).step hw'.verifyPhase.1 rfl

/-- What follows P_READ (45_session.md R223, R227). -/
theorem Working.actPhases (hr : PhaseRun .pRead t s) :
    PhasesRun .pRead t .pExit (actPhases d s) := by
  unfold Machine.actPhases
  split
  · rename_i hreadOnly
    exact PhasesRun.refl.step hr (if_pos hreadOnly)
  · rename_i hacts
    split
    · rename_i herases
      obtain ⟨herase, hw'⟩ := hw.erasePhase
      have herased := PhasesRun.refl.step hr ((if_neg hacts).trans (if_pos herases))
      dsimp only
      split
      · rename_i hwrites
        exact hw'.writes (herased.step herase (if_pos hwrites))
      · rename_i hkeeps
        exact (herased.step herase (if_neg hkeeps)).step hw'.verifyPhase.1 rfl
    · rename_i hwrites
      exact hw.writes (PhasesRun.refl.step hr ((if_neg hacts).trans (if_neg hwrites)))

end

/-! ## The whole session -/

/-- P_ENTER runs from the start of a session (45_session.md R222). -/
theorem phaseRun_enter (hc : configOk s.cfg = true) : PhaseRun .pEnter s (enterMode s) where
  inPhase := ⟨hc, nofun, nofun, nofun⟩
  run := microRun_enterMode hc
  exits := nofun

/-- P_IDENT writes `desc` (45_session.md R222). -/
theorem phaseRun_ident (hc : configOk s.cfg = true) (hd : s.sdoDir = .input) : PhaseRun .pIdent s (identPhase s) where
  inPhase := ⟨hc, nofun, nofun, nofun⟩
  run := microRun_identPhase hc hd
  exits := fun r hr hu => by
    rw [List.mem_singleton.1 hr] at hu
    exact identList_writes hc (.inr (.inr rfl)) ((microRun_identPhase hc hd).effect.unwritten hu)

theorem enterMode_cfg (s : State) : (enterMode s).cfg = s.cfg := rfl
theorem enterMode_sdoDir (s : State) : (enterMode s).sdoDir = .input := rfl

theorem entered_cfg (a : Option Action) (s : State) : (enterMode (startSession a s)).cfg = s.cfg := by
  rw [enterMode_cfg, startSession_cfg]

/-- Once a session has started, ENTER and P_IDENT write every register but the outcome of a wait
(45_session.md R221, R222). -/
theorem written_of_ident (a : Option Action) (hc : configOk s.cfg = true) :
    ∀ r ∈ (identPhase (enterMode (startSession a s))).unwritten, r = .wres := by
  have henter := (microRun_enterMode (s := startSession a s) (by rwa [startSession_cfg])).effect.unwritten
  have hcu : configOk (enterMode (startSession a s)).cfg = true := by rwa [entered_cfg]
  have hdu := enterMode_sdoDir (startSession a s)
  generalize enterMode (startSession a s) = u at *
  intro r hr
  have hafter := (microRun_identPhase hcu hdu).effect.unwritten hr
  obtain ⟨-, hmem⟩ := mem_startSession_unwritten.1 (mem_unwrittenAfter.1 (henter
    (mem_unwrittenAfter.1 hafter).1)).1
  by_contra hne
  refine identList_writes hcu (u := u.unwritten) (r := r) ?_ hafter
  simpa [transferWrites, hne, or_assoc] using hmem

section

variable (hc : configOk s.cfg = true) (hd : s.sdoDir = .input) (hw : ∀ r ∈ (identPhase s).unwritten, r = .wres)
include hc hd hw

/-- A device that P_IDENT finds is worked on (45_session.md R222). -/
theorem working_identPhase (hdev : (identPhase s).ident.desc ≠ none) :
    Working (identPhase s).row (identPhase s) := by
  have heffect := (microRun_identPhase hc hd).effect
  have hknown := knownRow_identPhase hc hdev
  obtain ⟨k, hk⟩ := Option.ne_none_iff_exists'.1 hdev
  have hget : (identPhase s).cfg.desc[k]? = some (identPhase s).row := by
    rw [← hknown, State.knownRow, hk]
    rfl
  refine ⟨heffect.cfg ▸ hc, ⟨k, hk, (List.getElem?_eq_some_iff.1 hget).1⟩, rfl, ?_, hw⟩
  rw [heffect.sdoDir, hd]
  exact dirAfter_of_keepsDir (phaseList_keepsDir (p := .pIdent) (by decide) _ s.row s.sess.erased) _

/-- From the end of P_IDENT to P_EXIT (45_session.md R222, R223). -/
theorem phasesRun_powered :
    PhasesRun (nextPhase (identPhase s) .pIdent) (identPhase s) .pExit (poweredPhases s) := by
  have hvalid := (microRun_identPhase hc hd).effect.cfg ▸ hc
  by_cases hdev : (identPhase s).ident.desc = none
  · rw [poweredPhases, if_pos hdev, show nextPhase (identPhase s) .pIdent = .pUnknown from if_pos hdev]
    exact PhasesRun.refl.tail ⟨⟨hvalid, nofun, nofun, nofun⟩, .nil _, nofun⟩
  · obtain ⟨hread, hw'⟩ := (working_identPhase hc hd hw hdev).readPhase
    rw [poweredPhases, if_neg hdev, show nextPhase (identPhase s) .pIdent = .pRead from if_neg hdev]
    exact hw'.actPhases hread

end

/-- P_EXIT (45_session.md R222, R232). -/
theorem phaseRun_exit (hc : configOk s.cfg = true) : PhaseRun .pExit s ((exitMode s).put .oValid (.flag true)) where
  inPhase := ⟨hc, nofun, nofun, nofun⟩
  run := microRun_exitList hc
  exits := nofun

/-- The state with which a session ends, before the pc returns to IDLE. -/
def sessionEnd (a : Option Action) (s : State) : State :=
  (exitMode (poweredPhases (enterMode (startSession a s)))).put .oValid (.flag true)

theorem runSession_eq_sessionEnd (a : Option Action) (s : State) :
    runSession a s = (sessionEnd a s).withPc ⟨.idle, 0⟩ :=
  runSession_eq a s

/-- From the end of P_IDENT to IDLE (45_session.md R222, R223). -/
theorem phasesRun_afterIdent (a : Option Action) (hc : configOk s.cfg = true) :
    PhasesRun (nextPhase (identPhase (enterMode (startSession a s))) .pIdent)
      (identPhase (enterMode (startSession a s))) .idle (sessionEnd a s) := by
  have hcu : configOk (enterMode (startSession a s)).cfg = true := by rwa [entered_cfg]
  have hpowered := phasesRun_powered hcu (enterMode_sdoDir _) (written_of_ident a hc)
  obtain ⟨_, heffect⟩ := hpowered.effect
  refine hpowered.step (phaseRun_exit ?_) rfl
  rw [heffect.cfg, (microRun_identPhase hcu (enterMode_sdoDir _)).effect.cfg]
  exact hcu

/-- A session is its phases, from P_ENTER to the return to IDLE (45_session.md R222, R223). -/
theorem phasesRun_session (a : Option Action) (hc : configOk s.cfg = true) :
    PhasesRun .pEnter (startSession a s) .idle (sessionEnd a s) := by
  have hcu : configOk (enterMode (startSession a s)).cfg = true := by rwa [entered_cfg]
  have hcs : configOk (startSession a s).cfg = true := by
    rw [startSession_cfg]
    exact hc
  exact ((PhasesRun.refl.step (phaseRun_enter hcs) rfl).tail (phaseRun_ident hcu (enterMode_sdoDir _))).trans
    (phasesRun_afterIdent a hc)

/-- Settles O57: the step that starts the session, then the steps of its phases. -/
theorem sequencerRefinesSession : Obligations.SequencerRefinesSession := by
  intro s t hc hp ht hexec
  have hsession : exec (.session s.host.action) (dropTrigger s) = .next t := hexec
  rw [exec_session_of_idle (s := dropTrigger s) _ hc hp, runSession_eq_sessionEnd] at hsession
  cases hsession
  have hrun := (phasesRun_session (s := dropTrigger s) s.host.action hc).reaches (by rw [startSession_host]; rfl)
  exact exists_run_of_reaches (.head (step_of_trigger hc hp ht) hrun)

end Sys2Proof.Machine
end

section
/-! How a session ends (45_session.md R222, R232; 10_state.md R37; 41_power.md R145): whatever the state in which it was
asked for. -/

namespace Sys2Proof.Machine

variable {s t u : State}

/-- A phase leaves the lines as the next one expects them (41_power.md R143, R145; 40_link.md R127). -/
theorem PhaseRun.entry {p : Phase} (h : PhaseRun p s t) (hl : s.pins = entryLines p ∧ s.sdoDir = .input) :
    t.pins = entryLines (nextPhase t p) ∧ t.sdoDir = .input := by
  obtain ⟨hpins, hdir⟩ := hl
  have heffect := h.run.effect
  rw [heffect.pins, heffect.sdoDir, hpins, hdir]
  exact ⟨linesAfter_phaseList h.inPhase.valid p _ _ t, dirAfter_phaseList p _ _ _⟩

/-- So do the phases one after the other. -/
theorem PhasesRun.entry {p q : Phase} (h : PhasesRun p s q t) (hl : s.pins = entryLines p ∧ s.sdoDir = .input) :
    t.pins = entryLines q ∧ t.sdoDir = .input := by
  induction h with
  | refl => exact hl
  | tail _ hq ih => exact hq.entry ih

/-- No phase writes the action or its record (10_state.md R33, 45_session.md R236). -/
theorem PhasesRun.readReg_action {p q : Phase} {r : Reg} (h : PhasesRun p s q t) (hr : r = .action ∨ r = .oAction) :
    t.readReg r = s.readReg r := by
  induction h with
  | refl => rfl
  | tail _ hq ih => exact (hq.run.readReg (phaseList_spares_action hr _ _ _ _)).trans ih

/-- ENTER and P_IDENT set every latch, whatever it was (41_power.md R141, 40_link.md R127). -/
theorem linesAfter_enter_ident {c : Config} (hc : configOk c = true) (l : Lines) :
    linesAfter (linesAfter l expandEnter) (identList c) = Lines.powered := by
  have hne : c.rdsbPairs c.sigIndices.first ≠ [] := List.ne_nil_of_length_pos (by rw [Laws.length_rdsbPairs hc]; decide)
  have hsecond : KeepsPowered (expandPairs c.widths (c.rdsbPairs c.sigIndices.second)) := keepsPowered_expandPairs hc _
  have hfirst : linesAfter (linesAfter l expandEnter) (expandPairs c.widths (c.rdsbPairs c.sigIndices.first)) =
      Lines.powered := linesAfter_expandPairs hc _ hne
  have hset (l : Lines) (r : Reg) (e : Expr) : linesAfter l [setOne r e] = l := rfl
  rw [identList_eq]
  simp only [linesAfter_append, hset, hfirst, hsecond, expandAccumulate]
  rfl

/-- A session leaves the lines at rest (41_power.md R145). -/
theorem sessionEnd_lines (a : Option Action) (hc : configOk s.cfg = true) :
    (sessionEnd a s).pins = Lines.resting ∧ (sessionEnd a s).sdoDir = .input := by
  have hafter := phasesRun_afterIdent a hc
  have henter := (microRun_enterMode (s := startSession a s) (by rwa [startSession_cfg])).effect.pins
  have hcu : configOk (enterMode (startSession a s)).cfg = true := by rwa [entered_cfg]
  have hdu := enterMode_sdoDir (startSession a s)
  generalize enterMode (startSession a s) = u at *
  have hident := phaseRun_ident hcu hdu
  have hpins : (identPhase u).pins = Lines.powered := by
    rw [hident.run.effect.pins, henter]
    exact linesAfter_enter_ident hcu _
  have hdir : (identPhase u).sdoDir = .input := by
    rw [hident.run.effect.sdoDir, hdu]
    exact dirAfter_phaseList .pIdent _ _ _
  exact hafter.entry ⟨hpins.trans (entry_nextPhase (by decide) _).1.symm, hdir⟩

/-- A session keeps the action it has latched (10_state.md R33). -/
theorem sessionEnd_action (a : Option Action) (hc : configOk s.cfg = true) :
    (sessionEnd a s).sess.action = latchedAction a ∧ (sessionEnd a s).outcome.action = latchedAction a := by
  have hphases := phasesRun_session a hc
  have hsess := congrArg Val.toAction (hphases.readReg_action (.inl rfl))
  have houtcome := congrArg Val.toAction (hphases.readReg_action (.inr rfl))
  simp only [State.readReg, startSession_sess, startSession_outcome, toAction_action] at hsess houtcome
  exact ⟨hsess, houtcome⟩

/-- A session writes every register but the outcome of a wait. -/
theorem sessionEnd_written (a : Option Action) (hc : configOk s.cfg = true) :
    ∀ r ∈ (sessionEnd a s).unwritten, r = .wres := by
  obtain ⟨_, heffect⟩ := (phasesRun_afterIdent a hc).effect
  exact fun r hr => written_of_ident a hc r (mem_unwrittenAfter.1 (heffect.unwritten hr)).1

/-- Settles O42: the session is its phases, and each leaves the lines and the registers as the next one needs them. -/
theorem sessionEndsPublished : Obligations.SessionEndsPublished := by
  intro a s hc hp
  have hexec := exec_session_of_idle a hc hp
  have hrun := run_of_exec hexec
  have hvalid := runSession_valid a s
  obtain ⟨_, heffect⟩ := (phasesRun_session a hc).effect
  have hrecorded := heffect.recorded.trans (startSession_readUnwritten a s)
  have hhost := heffect.host.trans (startSession_host a s)
  have hissue := heffect.issue.trans (startSession_issue a s)
  obtain ⟨hpins, hdir⟩ := sessionEnd_lines a hc
  obtain ⟨haction, hrecord⟩ := sessionEnd_action a hc
  have hwritten := sessionEnd_written a hc
  have hcfg := cfg_of_run hrun
  have hnow := now_le_of_run hrun
  have htrace := trace_of_run hrun
  rw [runSession_eq_sessionEnd] at *
  generalize sessionEnd a s = v at *
  refine ⟨_, hexec, rfl, hvalid, fun hnone => ⟨rfl, hvalid, hrecorded.trans hnone⟩, hrecorded, hpins, hdir, haction,
    hrecord, fun r hr hu => ?_, hcfg, hhost, hissue, hnow, htrace⟩
  rw [hwritten r hu] at hr
  revert hr
  decide

end Sys2Proof.Machine
end

section
/-! What a session finds and writes (45_session.md R222, R225 to R231, R234): each phase's requests of the link, the bytes
that they return, and the registers that are written from them. -/

namespace Sys2Proof.Machine

variable {s t u : State} {ops ops' : List LinkOp} {bs bs' : List Byte} {ws vs : List (Reg × Val)}

/-! ## Register values that may be absent -/

@[simp] theorem toByte?_ofByte? (b : Option Byte) : (Val.ofByte? b).toByte? = b := by
  cases b with
  | none => rfl
  | some b => exact toByte?_ofBits b

@[simp] theorem toFlag?_ofFlag? (b : Option Bool) : (Val.ofFlag? b).toFlag? = b := by
  cases b with
  | none => rfl
  | some b => exact toFlag?_flag b

@[simp] theorem toFlag_ofFlag? (b : Option Bool) : (Val.ofFlag? b).toFlag = b.getD false := by
  cases b with
  | none => rfl
  | some b => exact toFlag_flag b

/-! ## The registers that the link leaves alone -/

/-- Two states agree on the identifier, the session and the outcome. -/
structure SameRecords (s t : State) : Prop where
  ident : t.ident = s.ident
  sess : t.sess = s.sess
  outcome : t.outcome = s.outcome

namespace SameRecords

theorem refl (s : State) : SameRecords s s := ⟨rfl, rfl, rfl⟩

theorem trans (h : SameRecords s t) (h' : SameRecords t u) : SameRecords s u :=
  ⟨h'.ident.trans h.ident, h'.sess.trans h.sess, h'.outcome.trans h.outcome⟩

/-- They still do after the same write. -/
theorem put (h : SameRecords s t) (r : Reg) (v : Val) : SameRecords (s.put r v) (t.put r v) := by
  obtain ⟨hi, hs, ho⟩ := h
  constructor <;> cases r <;> simp [hi, hs, ho]

theorem putAll (h : SameRecords s t) (ws : List (Reg × Val)) : SameRecords (s.putAll ws) (t.putAll ws) := by
  induction ws generalizing s t with
  | nil => exact h
  | cons w ws ih => exact ih (h.put w.1 w.2)

end SameRecords

theorem LinkStep.sameRecords (h : LinkStep s t) : SameRecords s t := ⟨h.ident, h.sess, h.outcome⟩

/-! ## Requests, bytes and records -/

/-- From `s` to `t` the link was asked `ops` and returned `bs`, and of the registers of the identifier, the session and
the outcome `ws` were written (40_link.md R117). -/
structure Took (ops : List LinkOp) (bs : List Byte) (ws : List (Reg × Val)) (s t : State) : Prop where
  cfg : t.cfg = s.cfg
  trace : s.trace <+: t.trace
  run : IsLinkRun s.cfg ops bs s.now (newEvents s t) t.now
  records : SameRecords (s.putAll ws) t

namespace Took

theorem refl (s : State) : Took [] [] [] s s := ⟨rfl, List.prefix_rfl, ⟨newEvents_self s, rfl⟩, .refl s⟩

theorem trans (h : Took ops bs ws s t) (h' : Took ops' bs' vs t u) : Took (ops ++ ops') (bs ++ bs') (ws ++ vs) s u where
  cfg := h'.cfg.trans h.cfg
  trace := h.trace.trans h'.trace
  run := by
    have hrun := h'.run
    rw [h.cfg] at hrun
    rw [newEvents_trans h.trace h'.trace]
    exact isLinkRun_append h.run hrun
  records := by
    rw [putAll_append]
    exact (h.records.putAll vs).trans h'.records

/-- An operation of the link writes none of these registers. -/
theorem of_linkStep (hs : LinkStep s t) (hr : IsLinkRun s.cfg ops bs s.now (newEvents s t) t.now) :
    Took ops bs [] s t :=
  ⟨hs.cfg, hs.trace, hr, hs.sameRecords⟩

/-- Register writes take no time and add nothing to the trace (00_scope.md R14). -/
theorem write (h : Took ops bs ws s t) (vs : List (Reg × Val)) : Took ops bs (ws ++ vs) s (t.putAll vs) where
  cfg := (putAll_cfg t vs).trans h.cfg
  trace := (putAll_trace t vs).symm ▸ h.trace
  run := by
    rw [newEvents, putAll_trace, putAll_now]
    exact h.run
  records := by
    rw [putAll_append]
    exact h.records.putAll vs

/-- As many bytes are returned as frame pairs are sent. -/
theorem length (h : Took ops bs ws s t) : bs.length = sendCount ops := length_of_isLinkRun h.run

end Took

/-! ## The operations of a phase -/

section

variable (hc : configOk s.cfg = true)
include hc

/-- A sequence. -/
theorem transferAll_took (ps : List FramePair) : ∃ bs, Took (sends ps) bs [] s (transferAll ps s) := by
  obtain ⟨bs, -, hrun, -⟩ := transferAll_isLinkRun (ps := ps) hc
  exact ⟨bs, .of_linkStep (transferAll_linkStep hc) hrun⟩

theorem waitReady_took : Took [.wait] [] [] s (waitReady s) :=
  have hpoll := pollMin_ne_zero hc
  .of_linkStep (waitReady_linkStep hpoll) ⟨_, [], _, (List.append_nil _).symm, waitReady_isWait hpoll, rfl, rfl⟩

/-- A fuse read and its record (43_fuse_lock.md R180). -/
theorem readFuse_took (x : FuseSel) (r : Reg) : ∃ b1 b2 b, Took (sends (s.cfg.readPairs x)) [b1, b2, b] [(r, .ofBits b)] s
    (recordByte r (readFuse x s)) := by
  obtain ⟨b1, b2, hrun⟩ := transferAll_isLinkRun_three hc (Laws.length_readPairs hc x)
  exact ⟨b1, b2, _, (Took.of_linkStep (transferAll_linkStep hc) hrun).write [(r, _)]⟩

/-- RDLK (43_fuse_lock.md R184). -/
theorem readLock_took : ∃ b1 b2, Took (lockReadLink s.cfg) [b1, b2, (readLock s).link.rbyte] [] s (readLock s) := by
  obtain ⟨b1, b2, hrun⟩ := transferAll_isLinkRun_three hc (Laws.length_lockPairs hc)
  have hstep := transferAll_linkStep (ps := s.cfg.lockPairs) hc
  have hcfg : configOk (transferAll s.cfg.lockPairs s).cfg = true := by rwa [hstep.cfg]
  have hraw : (readLock s).link = (transferAll s.cfg.lockPairs s).link := waitReady_link (pollMin_ne_zero hcfg)
  rw [hraw]
  exact ⟨b1, b2, (Took.of_linkStep hstep hrun).trans (waitReady_took (s := transferAll s.cfg.lockPairs s) hcfg)⟩

end

/-- The records of fuse reads that returned `bs` (45_session.md R226, R230). -/
def fuseRecords (d : Descriptor) (l h e : Reg) (bs : List Byte) : List (Reg × Val) :=
  [(l, .ofByte? bs[2]?), (h, .ofByte? bs[5]?)] ++ if d.efuseDef.isSome then [(e, .ofByte? bs[8]?)] else []

/-- The records of P_READ (45_session.md R226). -/
def readRecords (d : Descriptor) (bs : List Byte) : List (Reg × Val) :=
  fuseRecords d .oFuseL0 .oFuseH0 .oFuseE0 bs ++
    [(.oLockRaw0, .ofByte? bs.getLast?), (.oLb1, .ofFlag? (bs.getLast?.map (·.getLsbD 0))),
      (.oLb2, .ofFlag? (bs.getLast?.map (·.getLsbD 1))), (.locked0, .ofFlag? (bs.getLast?.map isLocked)),
      (.oLocked0, .ofFlag? (bs.getLast?.map isLocked))]

/-- The records of P_ERASE (45_session.md R227, R229). -/
def eraseRecords (a : Action) : List (Reg × Val) :=
  [(.erased, .flag true), (.escalated, .flag (isEscalation a)), (.oErased, .flag true),
    (.oEscalated, .flag (isEscalation a))]

/-- The records of P_WRITE (45_session.md R228). -/
def writeRecords (d : Descriptor) : List (Reg × Val) :=
  [(.wrote, .flag true), (.oWrote, .flag true), (.oWrittenL, .ofBits d.lfuseDef), (.oWrittenH, .ofBits d.hfuseDef)] ++
    match d.efuseDef with
    | none => []
    | some e => [(.oWrittenE, .ofBits e)]

/-- The records of P_VERIFY (45_session.md R230, R231). -/
def verifyRecords (d : Descriptor) (erased : Bool) (bs : List Byte) : List (Reg × Val) :=
  fuseRecords d .oFuseL1 .oFuseH1 .oFuseE1 bs ++
    if erased then [(.oLockRaw1, .ofByte? bs.getLast?), (.oLocked1, .ofFlag? (bs.getLast?.map isLocked))] else []

section

variable (hc : configOk s.cfg = true) (d : Descriptor)
include hc

/-- The fuse reads of a descriptor; more bytes may follow theirs. -/
theorem readFuses_took (l h e : Reg) : ∃ bs, Took (fuseReadsLink s.cfg d) bs (fuseRecords d l h e bs) s
    (readFuses d l h e s) ∧ ∀ bs', fuseRecords d l h e (bs ++ bs') = fuseRecords d l h e bs := by
  obtain ⟨b1, b2, b3, hlow⟩ := readFuse_took hc .low l
  have hc' : configOk (recordByte l (readFuse .low s)).cfg = true := hlow.cfg ▸ hc
  obtain ⟨b4, b5, b6, hhigh⟩ := readFuse_took hc' .high h
  rw [hlow.cfg] at hhigh
  have hboth := hlow.trans hhigh
  unfold readFuses fuseReadsLink fuseRecords
  dsimp only
  split
  · have hc'' : configOk (recordByte h (readFuse .high (recordByte l (readFuse .low s)))).cfg = true := hboth.cfg ▸ hc
    obtain ⟨b7, b8, b9, hext⟩ := readFuse_took hc'' .ext e
    rw [hboth.cfg] at hext
    exact ⟨_, hboth.trans hext, fun _ => rfl⟩
  · rw [List.append_nil]
    exact ⟨_, hboth, fun _ => rfl⟩

/-- P_READ (45_session.md R222, R226). -/
theorem readPhase_took : ∃ bs, Took (fuseReadsLink s.cfg d ++ lockReadLink s.cfg) bs (readRecords d bs) s
    (readPhase d s) := by
  obtain ⟨bs, hfuses, hmore⟩ := readFuses_took hc d .oFuseL0 .oFuseH0 .oFuseE0
  unfold readPhase
  dsimp only
  generalize readFuses d .oFuseL0 .oFuseH0 .oFuseE0 s = u at *
  obtain ⟨b1, b2, hlock⟩ := readLock_took (s := u) (hfuses.cfg ▸ hc)
  rw [hfuses.cfg] at hlock
  have hread := hfuses.trans hlock
  rw [List.append_nil] at hread
  refine ⟨bs ++ [b1, b2, (readLock u).link.rbyte], ?_⟩
  rw [readRecords, hmore, List.getLast?_append]
  exact hread.write _

/-- P_ERASE (45_session.md R222, R229). -/
theorem erasePhase_took : ∃ bs, Took (eraseLink s.cfg) bs (eraseRecords s.sess.action) s (erasePhase s) := by
  obtain ⟨bs, hsent⟩ := transferAll_took hc s.cfg.erasePairs
  have hwait := waitReady_took (s := transferAll s.cfg.erasePairs s) (by rwa [hsent.cfg])
  have herase : Took _ _ _ s (eraseChip s) := hsent.trans hwait
  have haction : (eraseChip s).sess.action = s.sess.action := congrArg Session.action herase.records.sess
  rw [List.append_nil, List.append_nil] at herase
  rw [← haction]
  exact ⟨bs, herase.write _⟩

/-- P_WRITE (45_session.md R222, R228). -/
theorem writePhase_took : ∃ bs, Took (writesLink s.cfg d) bs (writeRecords d) s (writePhase d s) := by
  have hwrite {t : State} {ops : List LinkOp} (ht : ∃ bs, Took ops bs [] s t) (x : FuseSel) (v : Byte) :
      ∃ bs, Took (ops ++ sends (s.cfg.writePairs x v)) bs [] s (writeFuse x v t) := by
    obtain ⟨bs, ht⟩ := ht
    obtain ⟨bs', hsent⟩ := transferAll_took (s := t) (ht.cfg ▸ hc) (t.cfg.writePairs x v)
    rw [← ht.cfg]
    exact ⟨_, ht.trans hsent⟩
  have hboth := hwrite (hwrite ⟨_, .refl s⟩ .low d.lfuseDef) .high d.hfuseDef
  unfold writesLink writePhase writeRecords
  dsimp only
  cases d.efuseDef with
  | none =>
    obtain ⟨bs, hboth⟩ := hboth
    rw [List.append_nil]
    exact ⟨bs, hboth.write _⟩
  | some e =>
    obtain ⟨bs, hall⟩ := hwrite hboth .ext e
    exact ⟨bs, hall.write _⟩

/-- P_VERIFY (45_session.md R222, R230, R231). -/
theorem verifyPhase_took : ∃ bs, Took (fuseReadsLink s.cfg d ++ if s.sess.erased then lockReadLink s.cfg else []) bs
    (verifyRecords d s.sess.erased bs) s (verifyPhase d s) := by
  obtain ⟨bs, hfuses, hmore⟩ := readFuses_took hc d .oFuseL1 .oFuseH1 .oFuseE1
  have herased : (readFuses d .oFuseL1 .oFuseH1 .oFuseE1 s).sess.erased = s.sess.erased := by
    rw [hfuses.records.sess]
    unfold fuseRecords
    split <;> simp
  unfold verifyPhase
  dsimp only
  rw [herased]
  generalize readFuses d .oFuseL1 .oFuseH1 .oFuseE1 s = u at *
  cases s.sess.erased with
  | false =>
    rw [if_neg Bool.false_ne_true, if_neg Bool.false_ne_true, List.append_nil]
    refine ⟨bs, ?_⟩
    rw [verifyRecords, if_neg Bool.false_ne_true, List.append_nil]
    exact hfuses
  | true =>
    obtain ⟨b1, b2, hlock⟩ := readLock_took (s := u) (hfuses.cfg ▸ hc)
    rw [hfuses.cfg] at hlock
    have hread := hfuses.trans hlock
    rw [List.append_nil] at hread
    rw [if_pos rfl, if_pos rfl]
    refine ⟨bs ++ [b1, b2, (readLock u).link.rbyte], ?_⟩
    rw [verifyRecords, hmore, List.getLast?_append, if_pos rfl]
    exact hread.write _

end

end Sys2Proof.Machine
end

section
/-! A whole session, as the requests, the bytes and the records of its phases (45_session.md R222, R223, R227, R234). -/

namespace Sys2Proof.Machine

variable {s t u : State} {links : List (List LinkOp)} {bytes : List (List Byte)} {ops : List LinkOp} {bs : List Byte}
  {ws vs : List (Reg × Val)}

/-! ## P_IDENT -/

/-- The records of P_IDENT, which has read the signature `sig` (45_session.md R225). -/
def identRecords (table : List Descriptor) (sig : Signature) : List (Reg × Val) :=
  [(.sig, .ofBits sig), (.desc, .device (classifySig table sig)), (.oSignature, .ofBits sig),
    (.oDevice, .device (classifySig table sig))]

theorem rdsigPairs_eq (c : Config) : c.rdsigPairs = c.rdsbPairs c.sigIndices.first ++ c.rdsbPairs c.sigIndices.second := by
  simp [Config.rdsigPairs, Config.sigOrder]

/-- RDSIG is a link operation that writes `sig` (42_identify.md R162). -/
theorem sameRecords_readSignature (hc : configOk s.cfg = true) :
    SameRecords (s.put .sig (.ofBits (readSignature s).ident.sig)) (readSignature s) := by
  have hstep := (readSignature_linkStep hc (.ofBits (readSignature s).ident.sig)).sameRecords
  have hsame : SameRecords ((readSignature s).put .sig (.ofBits (readSignature s).ident.sig)) (readSignature s) :=
    ⟨by simp, rfl, rfl⟩
  exact hstep.trans hsame

/-- RDSIG: the fourth byte is the high byte of the signature, the eighth its low byte (42_identify.md R161, R162). -/
theorem readSignature_took (hc : configOk s.cfg = true) : ∃ b1 b2 b3 hi b5 b6 b7 lo,
    Took (sends s.cfg.rdsigPairs) [b1, b2, b3, hi, b5, b6, b7, lo] [(.sig, .ofBits (hi ++ lo))] s (readSignature s) ∧
      (readSignature s).ident.sig = hi ++ lo := by
  obtain ⟨b1, b2, b3, b5, b6, b7, hrun⟩ := readSignature_isLinkRun hc
  have hread := (LinkRan.refl s).readSignature hc
  have hsame := sameRecords_readSignature hc
  rw [readSignature_sig hc] at hsame
  rw [← rdsigPairs_eq] at hrun
  exact ⟨b1, b2, b3, (firstSigByte s).link.rbyte, b5, b6, b7, (readSignature s).link.rbyte,
    ⟨hread.cfg, hread.trace, hrun, hsame⟩, readSignature_sig hc⟩

/-- P_IDENT (45_session.md R222, R225). -/
theorem identPhase_took (hc : configOk s.cfg = true) : ∃ b1 b2 b3 hi b5 b6 b7 lo,
    Took (sends s.cfg.rdsigPairs) [b1, b2, b3, hi, b5, b6, b7, lo] (identRecords s.cfg.desc (hi ++ lo)) s
      (identPhase s) := by
  obtain ⟨b1, b2, b3, hi, b5, b6, b7, lo, hread, hsig⟩ := readSignature_took hc
  refine ⟨b1, b2, b3, hi, b5, b6, b7, lo, ?_⟩
  unfold identPhase
  dsimp only
  generalize readSignature s = u at *
  have hdesc : (classify u.ident.sig u).ident.desc = classifySig s.cfg.desc (hi ++ lo) := by
    simp [classify, hread.cfg, hsig]
  have hclassified : Took _ _ _ s (classify u.ident.sig u) :=
    hread.write [(.desc, .device (classifySig u.cfg.desc u.ident.sig))]
  have hkept : (classify u.ident.sig u).ident.sig = hi ++ lo := hsig
  rw [hread.cfg, hsig] at hclassified
  rw [hdesc, hkept, hsig]
  exact hclassified.write _

/-! ## Phases one after the other -/

/-- The phases from `s` to `t` asked the link `links`, phase by phase, were given the bytes `bytes`, and wrote `ws`. -/
structure SessionTook (links : List (List LinkOp)) (bytes : List (List Byte)) (ws : List (Reg × Val)) (s t : State) :
    Prop where
  took : Took links.flatten bytes.flatten ws s t
  lengths : bytes.map (·.length) = links.map sendCount

theorem SessionTook.nil (s : State) : SessionTook [] [] [] s s := ⟨.refl s, rfl⟩

theorem SessionTook.append {links' : List (List LinkOp)} {bytes' : List (List Byte)}
    (h : SessionTook links bytes ws s t) (h' : SessionTook links' bytes' vs t u) :
    SessionTook (links ++ links') (bytes ++ bytes') (ws ++ vs) s u where
  took := by simpa using h.took.trans h'.took
  lengths := by simp [h.lengths, h'.lengths]

/-- One more phase. -/
theorem SessionTook.next (h : SessionTook links bytes ws s t) (h' : Took ops bs vs t u) :
    SessionTook (links ++ [ops]) (bytes ++ [bs]) (ws ++ vs) s u :=
  h.append ⟨by simpa using h', by simp [h'.length]⟩

/-- A phase that runs only if `p`. -/
theorem SessionTook.nextIf {p : Prop} [Decidable p] {vs : List Byte → List (Reg × Val)}
    (h : SessionTook links bytes ws s t) (hp : p → ∃ bs, Took ops bs (vs bs) t u) :
    ∃ bs, SessionTook (links ++ [if p then ops else []]) (bytes ++ [bs]) (ws ++ if p then vs bs else []) s
      (if p then u else t) ∧ (¬p → bs = []) := by
  by_cases hyes : p
  · obtain ⟨bs, htook⟩ := hp hyes
    simp only [if_pos hyes]
    exact ⟨bs, h.next htook, fun hno => absurd hyes hno⟩
  · simp only [if_neg hyes]
    exact ⟨[], h.next (.refl t), fun _ => rfl⟩

/-! ## After P_READ -/

/-- Whether P_READ is followed by P_ERASE (45_session.md R223, R227). -/
def erases (a : Action) (locked : Bool) : Bool := a = .erase || (a = .writeDefaults && locked)

/-- The phases after P_READ, each one run or not (45_session.md R222, R227). -/
theorem actPhases_eq (d : Descriptor) (hkept : (erasePhase s).sess.action = s.sess.action) :
    actPhases d s =
      let erased := if erases s.sess.action s.sess.locked0 then erasePhase s else s
      let wrote := if s.sess.action = .writeDefaults then writePhase d erased else erased
      if s.sess.action ≠ .readOnly then verifyPhase d wrote else wrote := by
  unfold actPhases erases
  dsimp only
  rw [hkept]
  cases s.sess.action with
  | readOnly => rfl
  | erase => rfl
  | writeDefaults => cases s.sess.locked0 <;> rfl

/-- The records of the phases after P_READ (45_session.md R227 to R231). -/
def actRecords (d : Descriptor) (a : Action) (erased : Bool) (bV : List Byte) : List (Reg × Val) :=
  (if erased then eraseRecords a else []) ++ (if a = .writeDefaults then writeRecords d else []) ++
    if a = .readOnly then [] else verifyRecords d erased bV

theorem actPhases_took (hc : configOk s.cfg = true) (d : Descriptor) (he : s.sess.erased = false) {a : Action}
    {erased : Bool} (ha : s.sess.action = a) (herased : erases a s.sess.locked0 = erased) : ∃ bE bW bV,
    SessionTook ((sessionLinks s.cfg (some d) a erased).drop 2) [bE, bW, bV] (actRecords d a erased bV) s
      (actPhases d s) ∧ (a = .readOnly → bV = []) := by
  have herase := ((LinkRan.refl s).erasePhase hc).path
  have hkept : (erasePhase s).sess.action = s.sess.action := congrArg SessionPath.action herase
  rw [actPhases_eq d hkept, ha, herased]
  dsimp only
  obtain ⟨bE, hE, -⟩ := (SessionTook.nil s).nextIf (p := erased = true) fun _ => erasePhase_took hc
  have hflagE : (if erased then erasePhase s else s).sess.erased = erased := by
    cases erased with
    | false => exact he
    | true => exact congrArg SessionPath.erased herase
  generalize (if erased then erasePhase s else s) = u at *
  have hcu : configOk u.cfg = true := hE.took.cfg ▸ hc
  obtain ⟨bW, hW, -⟩ := hE.nextIf (p := a = .writeDefaults) fun _ => writePhase_took hcu d
  have hflagW : (if a = .writeDefaults then writePhase d u else u).sess.erased = erased := by
    split
    · exact (congrArg SessionPath.erased ((LinkRan.refl u).writePhase hcu).path).trans hflagE
    · exact hflagE
  generalize (if a = .writeDefaults then writePhase d u else u) = v at *
  obtain ⟨bV, hV, hnone⟩ := hW.nextIf (p := a ≠ .readOnly) fun _ => verifyPhase_took (hW.took.cfg ▸ hc) d
  rw [hflagW, ha, hW.took.cfg, hE.took.cfg] at hV
  simp only [ite_not] at hV ⊢
  exact ⟨bE, bW, bV, hV, fun h => hnone (not_not.2 h)⟩

/-! ## The whole session -/

/-- The records of a session that has read the signature `sig`: those of P_IDENT, and for a device those of the phases
after it (45_session.md R222, R223). -/
def sessionRecords (table : List Descriptor) (sig : Signature) (row : Option Descriptor) (a : Action) (erased : Bool)
    (bR bV : List Byte) : List (Reg × Val) :=
  identRecords table sig ++
    match row with
    | none => []
    | some d => readRecords d bR ++ actRecords d a erased bV

/-- Whether the session of a device found locked or not erases it. -/
def sessionErases (row : Option Descriptor) (a : Action) (bR : List Byte) : Bool :=
  row.isSome && erases a ((bR.getLast?.map isLocked).getD false)

/-- P_READ keeps the lock bit for what follows (45_session.md R226, R227). -/
theorem putAll_readRecords_sess (s : State) (d : Descriptor) (bs : List Byte) :
    (s.putAll (readRecords d bs)).sess = { s.sess with locked0 := (bs.getLast?.map isLocked).getD false } := by
  unfold readRecords fuseRecords
  split <;> simp

/-- The row that a session has worked on is the one that P_IDENT found (45_session.md R225). -/
theorem knownRow_poweredPhases {device : Option DescIdx} {a : Action} (hc : configOk s.cfg = true)
    (hs : s.path = .begun device a) : (poweredPhases s).knownRow = (identPhase s).knownRow := by
  obtain ⟨_, hran⟩ := poweredPhases_linkRan hc hs
  exact hran.knownRow.trans ((LinkRan.refl s).identPhase hc).knownRow.symm

/-- The phases between ENTER and EXIT, on every path (45_session.md R222, R223, R227). -/
theorem poweredPhases_took {device : Option DescIdx} {a : Action} (hc : configOk s.cfg = true)
    (hs : s.path = .begun device a) : ∃ (bI bR bE bW bV : List Byte) (hi lo : Byte),
      bI[3]? = some hi ∧ bI[7]? = some lo ∧
      SessionTook (sessionLinks s.cfg (poweredPhases s).knownRow a (sessionErases (poweredPhases s).knownRow a bR))
        [bI, bR, bE, bW, bV] (sessionRecords s.cfg.desc (hi ++ lo) (poweredPhases s).knownRow a
          (sessionErases (poweredPhases s).knownRow a bR) bR bV) s (poweredPhases s) ∧
      ((poweredPhases s).knownRow = none → bR = [] ∧ bV = []) ∧ (a = .readOnly → bV = []) := by
  rw [knownRow_poweredPhases hc hs]
  obtain ⟨b1, b2, b3, hi, b5, b6, b7, lo, hident⟩ := identPhase_took hc
  have hfirst := (SessionTook.nil s).next hident
  by_cases hdev : (identPhase s).ident.desc = none
  · have hrow : (identPhase s).knownRow = none := by
      rw [State.knownRow, hdev]
      rfl
    rw [poweredPhases, if_pos hdev, hrow]
    have hnothing := (((hfirst.next (.refl _)).next (.refl _)).next (.refl _)).next (.refl _)
    exact ⟨_, [], [], [], [], hi, lo, rfl, rfl, hnothing, fun _ => ⟨rfl, rfl⟩, fun _ => rfl⟩
  · rw [poweredPhases, if_neg hdev, knownRow_identPhase hc hdev]
    generalize (identPhase s).row = d
    have hsess : (identPhase s).sess = s.sess := by simpa [identRecords] using hident.records.sess
    have hcfg := hident.cfg
    generalize identPhase s = u at *
    have hcu : configOk u.cfg = true := hcfg ▸ hc
    obtain ⟨bR, hread⟩ := readPhase_took hcu d
    have hsess' := hread.records.sess
    rw [putAll_readRecords_sess, hsess] at hsess'
    have hcfg' := hread.cfg.trans hcfg
    generalize readPhase d u = v at *
    have haction : v.sess.action = a := hsess' ▸ congrArg SessionPath.action hs
    have herased : v.sess.erased = false := hsess' ▸ congrArg SessionPath.erased hs
    have hlocked : v.sess.locked0 = (bR.getLast?.map isLocked).getD false := hsess' ▸ rfl
    obtain ⟨bE, bW, bV, hact, hnone⟩ := actPhases_took (hcfg' ▸ hc) d herased haction (congrArg (erases a) hlocked)
    rw [hcfg] at hread
    rw [hcfg'] at hact
    have hall := (hfirst.next hread).append hact
    rw [List.nil_append, List.nil_append, List.nil_append, List.append_assoc] at hall
    exact ⟨_, bR, bE, bW, bV, hi, lo, rfl, rfl, hall, nofun, hnone⟩

/-- The events of a session, from those of the phases between ENTER and EXIT (45_session.md R222). -/
theorem SessionTook.isSession {a : Option Action} {v : State}
    (h : SessionTook links bytes ws (enterMode (startSession a s)) v) : IsSession s.cfg links bytes
      (newEvents s (exitPhase v)) := by
  have henter : Run s (enterMode (startSession a s)) := ((Lockstep.self s).startSession.enterMode).run
  have hkinds := newKinds_entered a s
  generalize enterMode (startSession a s) = u at *
  have hexit : Run v (exitPhase v) := (Lockstep.self v).exitPhase.run
  have htrace := h.took.trace
  have hrun := h.took.run
  rw [cfg_of_run henter] at hrun
  have hevents : newEvents s (exitPhase v) = newEvents s u ++ newEvents u v ++ newEvents v (exitPhase v) := by
    rw [newEvents_trans (trace_of_run henter) (htrace.trans (trace_of_run hexit)),
      newEvents_trans htrace (trace_of_run hexit), List.append_assoc]
  exact ⟨_, _, _, u.now, v.now, hevents, hkinds, newKinds_exitPhase v, fun e he => (eventsWithin_of_run henter e he).2,
    fun e he => (eventsWithin_of_run hexit e he).1, h.lengths, hrun⟩

end Sys2Proof.Machine
end

section
/-! What the outcome of a session holds, and what the session has sent, path by path (45_session.md R234, R235). -/

namespace Sys2Proof.Machine

variable {s t u v : State}

/-! ## The outcome -/

/-- The outcome of a session of the row `row` that has read the signature `sig` and classified it as `dev`, under the
action `a`, with the bytes `bR` of P_READ and `bV` of P_VERIFY (45_session.md R234). -/
def sessionOutcome (a : Action) (sig : Signature) (dev : Option DescIdx) (row : Option Descriptor) (bR bV : List Byte) :
    SessionOutcome where
  valid := true
  action := a
  signature := some sig
  device := some dev
  fuseL0 := bR[2]?
  fuseH0 := bR[5]?
  fuseE0 := if (row.bind (·.efuseDef)).isSome then bR[8]? else none
  lockRaw0 := bR.getLast?
  lb1 := bR.getLast?.map (·.getLsbD 0)
  lb2 := bR.getLast?.map (·.getLsbD 1)
  locked0 := bR.getLast?.map isLocked
  erased := sessionErases row a bR
  escalated := sessionErases row a bR && isEscalation a
  wrote := row.isSome && isEscalation a
  writtenL := if row.isSome && isEscalation a then row.map (·.lfuseDef) else none
  writtenH := if row.isSome && isEscalation a then row.map (·.hfuseDef) else none
  writtenE := if row.isSome && isEscalation a then row.bind (·.efuseDef) else none
  fuseL1 := bV[2]?
  fuseH1 := bV[5]?
  fuseE1 := if (row.bind (·.efuseDef)).isSome then bV[8]? else none
  lockRaw1 := if sessionErases row a bR then bV.getLast? else none
  locked1 := (if sessionErases row a bR then bV.getLast? else none).map isLocked

theorem outcome_identRecords (s : State) (table : List Descriptor) (sig : Signature) :
    (s.putAll (identRecords table sig)).outcome =
      { s.outcome with signature := some sig, device := some (classifySig table sig) } := by
  simp [identRecords]

theorem outcome_readRecords (s : State) (d : Descriptor) (bs : List Byte) : (s.putAll (readRecords d bs)).outcome =
    { s.outcome with
      fuseL0 := bs[2]?
      fuseH0 := bs[5]?
      fuseE0 := if d.efuseDef.isSome then bs[8]? else s.outcome.fuseE0
      lockRaw0 := bs.getLast?
      lb1 := bs.getLast?.map (·.getLsbD 0)
      lb2 := bs.getLast?.map (·.getLsbD 1)
      locked0 := bs.getLast?.map isLocked } := by
  unfold readRecords fuseRecords
  split <;> simp

theorem outcome_eraseRecords (s : State) (a : Action) :
    (s.putAll (eraseRecords a)).outcome = { s.outcome with erased := true, escalated := isEscalation a } := by
  simp [eraseRecords]

theorem outcome_writeRecords (s : State) (d : Descriptor) : (s.putAll (writeRecords d)).outcome =
    { s.outcome with
      wrote := true
      writtenL := some d.lfuseDef
      writtenH := some d.hfuseDef
      writtenE := d.efuseDef.or s.outcome.writtenE } := by
  unfold writeRecords
  cases d.efuseDef <;> simp

theorem outcome_verifyRecords (s : State) (d : Descriptor) (erased : Bool) (bs : List Byte) :
    (s.putAll (verifyRecords d erased bs)).outcome =
    { s.outcome with
      fuseL1 := bs[2]?
      fuseH1 := bs[5]?
      fuseE1 := if d.efuseDef.isSome then bs[8]? else s.outcome.fuseE1
      lockRaw1 := if erased then bs.getLast? else s.outcome.lockRaw1
      locked1 := if erased then bs.getLast?.map isLocked else s.outcome.locked1 } := by
  unfold verifyRecords fuseRecords
  split <;> cases erased <;> simp

theorem getD_false_eq (b : Option Bool) : b.getD false = decide (b = some true) := by
  rcases b with _ | _ | _ <;> rfl

/-- A session erases a device under Erase, and under WriteDefaults where P_READ found it locked
(45_session.md R227, R234). -/
theorem sessionErases_eq (row : Option Descriptor) (a : Action) (bR : List Byte) :
    sessionErases row a bR = (row.isSome && (decide (a = .erase) ||
      (decide (a = .writeDefaults) && decide (bR.getLast?.map isLocked = some true)))) := by
  rw [sessionErases, erases, getD_false_eq]

/-- A session escalates under WriteDefaults where P_READ found the device locked (45_session.md R227, R234). -/
theorem escalates_eq {row : Option Descriptor} {bR : List Byte} (hnone : row = none → bR = []) (a : Action) :
    (sessionErases row a bR && isEscalation a) =
      (decide (a = .writeDefaults) && decide (bR.getLast?.map isLocked = some true)) := by
  rw [sessionErases_eq]
  cases row with
  | none =>
    rw [hnone rfl]
    simp
  | some d => cases a <;> simp [isEscalation]

/-- The records of a session, put together. -/
theorem outcome_sessionRecords {table : List Descriptor} {sig : Signature} {row : Option Descriptor} {a : Action}
    {bR bV : List Byte} (hs : s.outcome = { SessionOutcome.blank with action := a })
    (hnone : row = none → bR = [] ∧ bV = []) (hread : a = .readOnly → bV = []) :
    { (s.putAll (sessionRecords table sig row a (sessionErases row a bR) bR bV)).outcome with valid := true } =
      sessionOutcome a sig (classifySig table sig) row bR bV := by
  unfold sessionRecords
  rw [putAll_append]
  cases row with
  | none =>
    obtain ⟨rfl, rfl⟩ := hnone rfl
    simp [outcome_identRecords, hs, SessionOutcome.blank, sessionOutcome, sessionErases]
  | some d =>
    dsimp only
    rw [actRecords, putAll_append, putAll_append, putAll_append]
    unfold sessionOutcome
    cases a with
    | readOnly =>
      obtain rfl := hread rfl
      simp [sessionErases, erases, outcome_readRecords, outcome_identRecords, hs, SessionOutcome.blank, isEscalation]
    | erase =>
      simp [sessionErases, erases, outcome_verifyRecords, outcome_eraseRecords, outcome_readRecords,
        outcome_identRecords, hs, SessionOutcome.blank, isEscalation]
    | writeDefaults =>
      have herases : sessionErases (some d) .writeDefaults bR = (bR.getLast?.map isLocked).getD false := rfl
      rw [herases]
      cases (bR.getLast?.map isLocked).getD false <;>
        simp [outcome_verifyRecords, outcome_writeRecords, outcome_eraseRecords, outcome_readRecords,
          outcome_identRecords, hs, SessionOutcome.blank, isEscalation]

/-! ## The whole session -/

theorem enterMode_outcome (s : State) : (enterMode s).outcome = s.outcome := rfl

theorem ident_readRecords (s : State) (d : Descriptor) (bs : List Byte) :
    (s.putAll (readRecords d bs)).ident = s.ident := by
  unfold readRecords fuseRecords
  split <;> simp

theorem ident_eraseRecords (s : State) (a : Action) : (s.putAll (eraseRecords a)).ident = s.ident := by
  simp [eraseRecords]

theorem ident_writeRecords (s : State) (d : Descriptor) : (s.putAll (writeRecords d)).ident = s.ident := by
  unfold writeRecords
  cases d.efuseDef <;> simp

theorem ident_verifyRecords (s : State) (d : Descriptor) (erased : Bool) (bs : List Byte) :
    (s.putAll (verifyRecords d erased bs)).ident = s.ident := by
  unfold verifyRecords fuseRecords
  split <;> cases erased <;> simp

theorem ident_actRecords (s : State) (d : Descriptor) (a : Action) (erased : Bool) (bs : List Byte) :
    (s.putAll (actRecords d a erased bs)).ident = s.ident := by
  simp only [actRecords, putAll_append]
  cases a <;> cases erased <;> simp [ident_eraseRecords, ident_writeRecords, ident_verifyRecords]

/-- Only P_IDENT writes the identifier (45_session.md R225). -/
theorem ident_sessionRecords (s : State) (table : List Descriptor) (sig : Signature) (row : Option Descriptor)
    (a : Action) (erased : Bool) (bR bV : List Byte) :
    (s.putAll (sessionRecords table sig row a erased bR bV)).ident.sig = sig ∧
      (s.putAll (sessionRecords table sig row a erased bR bV)).ident.desc = classifySig table sig := by
  unfold sessionRecords
  rw [putAll_append]
  cases row with
  | none => simp [identRecords]
  | some d =>
    dsimp only
    rw [putAll_append, ident_actRecords, ident_readRecords]
    simp [identRecords]

/-- What a session has sent, found and recorded. -/
structure SessionResult (a : Action) (s t : State) (bI bR bE bW bV : List Byte) (hi lo : Byte) : Prop where
  high : bI[3]? = some hi
  low : bI[7]? = some lo
  sent : IsSession s.cfg (sessionLinks s.cfg t.knownRow a (sessionErases t.knownRow a bR)) [bI, bR, bE, bW, bV]
    (newEvents s t)
  sig : t.ident.sig = hi ++ lo
  desc : t.ident.desc = classifySig s.cfg.desc (hi ++ lo)
  cfg : t.cfg = s.cfg
  outcome : t.outcome = sessionOutcome a (hi ++ lo) t.ident.desc t.knownRow bR bV
  unknown : t.knownRow = none → bR = []

theorem exists_sessionResult (a : Option Action) (hc : configOk s.cfg = true) :
    ∃ bI bR bE bW bV hi lo, SessionResult (latchedAction a) s (runSession a s) bI bR bE bW bV hi lo := by
  have hcu : configOk (enterMode (startSession a s)).cfg = true := by rwa [entered_cfg]
  obtain ⟨bI, bR, bE, bW, bV, hi, lo, hhigh, hlow, htook, hnone, hread⟩ := poweredPhases_took hcu (path_entered a s)
  have hstart : (enterMode (startSession a s)).outcome = { SessionOutcome.blank with action := latchedAction a } := by
    rw [enterMode_outcome, startSession_outcome]
  have hsent := htook.isSession
  rw [entered_cfg] at hsent htook
  rw [runSession_eq]
  have hcfg := htook.took.cfg.trans (entered_cfg a s)
  have hrecords := htook.took.records
  generalize poweredPhases (enterMode (startSession a s)) = v at *
  generalize enterMode (startSession a s) = u at *
  have hident := ident_sessionRecords u s.cfg.desc (hi ++ lo) v.knownRow (latchedAction a)
    (sessionErases v.knownRow (latchedAction a) bR) bR bV
  rw [← hrecords.ident] at hident
  obtain ⟨hsig, hdesc⟩ := hident
  refine ⟨bI, bR, bE, bW, bV, hi, lo, hhigh, hlow, hsent, hsig, hdesc, hcfg, ?_, fun h => (hnone h).1⟩
  have houtcome := outcome_sessionRecords (s := u) (table := s.cfg.desc) (sig := hi ++ lo) hstart hnone hread
  rw [← hrecords.outcome] at houtcome
  show { v.outcome with valid := true } = sessionOutcome _ _ v.ident.desc v.knownRow bR bV
  rw [houtcome, hdesc]

/-- A device has a row (10_state.md R30). -/
theorem isSome_desc_of_classified {table : List Descriptor} {sig : Signature} (hd : t.ident.desc = classifySig table sig)
    (ht : t.cfg.desc = table) : t.ident.desc.isSome = t.knownRow.isSome := by
  rw [State.knownRow, ht]
  cases h : t.ident.desc with
  | none => rfl
  | some k => simp [lt_of_classifySig (hd.symm.trans h)]

/-- Settles O43: the records of the phases, put together, with the bytes that each phase was given. -/
theorem sessionOutcomeByPath : Obligations.SessionOutcomeByPath := by
  intro a s t hc hp ht
  cases (exec_session_of_idle a hc hp).symm.trans ht
  obtain ⟨bI, bR, bE, bW, bV, hi, lo, hres⟩ := exists_sessionResult a hc
  generalize runSession a s = t at *
  have hsome := isSome_desc_of_classified hres.desc (congrArg Config.desc hres.cfg)
  obtain ⟨hhigh, hlow, hsent, hsig, hdesc, -, houtcome, hunknown⟩ := hres
  refine ⟨bI, bR, bE, bW, bV, hi, lo, ?_⟩
  rw [houtcome, hsome, hsig]
  refine ⟨hsent, hhigh, hlow, rfl, fun k => hdesc ▸ classifySig_eq_some_iff hc, rfl, rfl, rfl, rfl, rfl, rfl, rfl, rfl,
    rfl, ?_⟩
  exact ⟨rfl, sessionErases_eq _ _ _, escalates_eq hunknown _, rfl, rfl, rfl, rfl, rfl, rfl, rfl, rfl, rfl⟩

end Sys2Proof.Machine
end

section
/-! How much a session sends (45_session.md R235): the frame pairs and the waits of each phase, and the clock pulses that
they take. -/

namespace Sys2Proof.Machine

variable {c : Config}

/-! ## Clock pulses -/

/-- Requests of the link have the clock pulses of their frame pairs: a wait has none (40_link.md R113, R115, R126). -/
theorem clockRises_of_isLinkRun {ops : List LinkOp} {bs : List Byte} {evs : List Event} {begun ended : Nat}
    (h : IsLinkRun c ops bs begun evs ended) :
    clockRises (evs.map (·.kind)) = c.widths.frameBits * sendCount ops := by
  induction ops generalizing bs evs begun with
  | nil =>
    cases bs with
    | nil =>
      obtain ⟨rfl, -⟩ := h
      rfl
    | cons b bs => exact h.elim
  | cons o ops ih =>
    cases o with
    | send p =>
      cases bs with
      | nil => exact h.elim
      | cons b bs =>
        obtain ⟨e1, e2, _, rfl, hsend, hrest⟩ := h
        have hcount : sendCount (.send p :: ops) = sendCount ops + 1 := by simp [sendCount]
        rw [List.map_append, clockRises_append, clockRises_of_isTransfer hsend, ih hrest, hcount]
        ring
    | wait =>
      have hw : ∃ e1 e2 mid, evs = e1 ++ e2 ∧ IsWait c.timing begun e1 mid ∧ IsLinkRun c ops bs mid e2 ended := by
        cases bs <;> exact h
      obtain ⟨e1, e2, _, rfl, ⟨polls, -, hpolls, -⟩, hrest⟩ := hw
      have hcount : sendCount (.wait :: ops) = sendCount ops := by simp [sendCount]
      rw [List.map_append, clockRises_append, hpolls, clockRises_samples, ih hrest, hcount, Nat.zero_add]

/-- Neither ENTER nor EXIT has a clock pulse (41_power.md R141, R144). -/
theorem clockRises_of_isSession {links : List (List LinkOp)} {bytes : List (List Byte)} {evs : List Event}
    (h : IsSession c links bytes evs) : clockRises (evs.map (·.kind)) = c.widths.frameBits * sendCount links.flatten := by
  obtain ⟨entry, run, quit, _, _, rfl, hentry, hquit, -, -, -, hrun⟩ := h
  have henter : clockRises enterKinds = 0 := by decide
  have hexit : clockRises exitKinds = 0 := by decide
  rw [List.map_append, List.map_append, clockRises_append, clockRises_append, hentry, hquit, henter, hexit,
    clockRises_of_isLinkRun hrun]
  ring

/-! ## Frame pairs and waits -/

/-- How many frame pairs some requests send, and how many waits they are. -/
def linkCost (ops : List LinkOp) : Nat × Nat := (sendCount ops, ops.count .wait)

theorem linkCost_append (a b : List LinkOp) : linkCost (a ++ b) = linkCost a + linkCost b := by
  simp [linkCost, sendCount]

theorem linkCost_sends (ps : List FramePair) : linkCost (sends ps) = (ps.length, 0) := by
  have hsent : sendCount (sends ps) = ps.length := by simp [sendCount, sends, Function.comp_def]
  have hwaits : LinkOp.wait ∉ sends ps := by simp [sends]
  rw [linkCost, hsent, List.count_eq_zero_of_not_mem hwaits]

section

variable (hc : configOk c = true)
include hc

theorem linkCost_rdsig : linkCost (sends c.rdsigPairs) = (8, 0) := by
  rw [linkCost_sends, rdsigPairs_eq, List.length_append, Laws.length_rdsbPairs hc, Laws.length_rdsbPairs hc]

theorem linkCost_lockRead : linkCost (lockReadLink c) = (3, 1) := by
  rw [lockReadLink, linkCost_append, linkCost_sends, Laws.length_lockPairs hc]
  rfl

theorem linkCost_erase : linkCost (eraseLink c) = (3, 1) := by
  rw [eraseLink, linkCost_append, linkCost_sends, Laws.length_erasePairs hc]
  rfl

/-- A part with two fuse bytes has six frame pairs to read them, one with three has nine (45_session.md R226). -/
theorem linkCost_fuseReads (d : Descriptor) :
    linkCost (fuseReadsLink c d) = (if d.efuseDef.isSome then 9 else 6, 0) := by
  rw [fuseReadsLink, linkCost_append, linkCost_append, linkCost_sends, linkCost_sends, Laws.length_readPairs hc,
    Laws.length_readPairs hc]
  split
  · rw [linkCost_sends, Laws.length_readPairs hc]
    rfl
  · rfl

/-- A part with two fuse bytes has eight frame pairs to write them, one with three has twelve (45_session.md R228). -/
theorem linkCost_writes (d : Descriptor) : linkCost (writesLink c d) = (if d.efuseDef.isSome then 12 else 8, 0) := by
  rw [writesLink, linkCost_append, linkCost_append, linkCost_sends, linkCost_sends, Laws.length_writePairs hc,
    Laws.length_writePairs hc]
  cases d.efuseDef with
  | none => rfl
  | some e =>
    dsimp only
    rw [linkCost_sends, Laws.length_writePairs hc]
    rfl

/-- What the session of a device costs on each path (45_session.md R235). -/
theorem linkCost_session (d : Descriptor) (a : Action) (erased : Bool) :
    linkCost (sessionLinks c (some d) a erased).flatten =
      (8, 0) + (((if d.efuseDef.isSome then 9 else 6, 0) + (3, 1)) + ((if erased then (3, 1) else 0) +
        ((if a = .writeDefaults then (if d.efuseDef.isSome then 12 else 8, 0) else 0) +
          if a = .readOnly then 0 else (if d.efuseDef.isSome then 9 else 6, 0) + if erased then (3, 1) else 0))) := by
  have hnil : linkCost [] = 0 := rfl
  simp only [sessionLinks, List.flatten_cons, List.flatten_nil, List.append_nil, linkCost_append, apply_ite linkCost,
    linkCost_rdsig hc, linkCost_fuseReads hc, linkCost_lockRead hc, linkCost_erase hc, linkCost_writes hc, hnil]

end

/-- A row has an extended fuse byte exactly if its family has three fuse bytes (10_state.md R41). -/
theorem efuse_of_family {d : Descriptor} (hc : configOk c = true) (hd : d ∈ c.desc) :
    d.efuseDef.isSome = decide (d.family = .fam3) := by
  simp only [configOk, descOk, Bool.and_eq_true, List.all_eq_true] at hc
  obtain ⟨⟨⟨⟨-, -, hrows⟩, -⟩, -⟩, -⟩ := hc
  have hrow := hrows d hd
  unfold rowOk at hrow
  cases hf : d.family <;> simp_all

theorem mem_desc_of_knownRow {t : State} {d : Descriptor} (h : t.knownRow = some d) : d ∈ t.cfg.desc := by
  obtain ⟨_, -, hk⟩ := Option.bind_eq_some_iff.1 h
  exact List.mem_of_getElem? hk

/-- Settles O44: the links of the session's path, counted phase by phase. -/
theorem sessionFramePairCounts : Obligations.SessionFramePairCounts := by
  intro a s t hc hp ht
  cases (exec_session_of_idle a hc hp).symm.trans ht
  obtain ⟨bI, bR, bE, bW, bV, hi, lo, hres⟩ := exists_sessionResult a hc
  generalize runSession a s = t at *
  obtain ⟨-, -, hsent, -, -, hcfg, houtcome, -⟩ := hres
  have hrises := clockRises_of_isSession hsent
  rw [(widths_of_configOk hc).1] at hrises
  have haction : t.outcome.action = latchedAction a := congrArg SessionOutcome.action houtcome
  have herased : t.outcome.erased = sessionErases t.knownRow (latchedAction a) bR :=
    congrArg SessionOutcome.erased houtcome
  rw [haction, herased]
  refine ⟨⟨_, hsent⟩, _, _, hrises, rfl, rfl, ?_⟩
  change linkCost _ = _
  cases hrow : t.knownRow with
  | none => simpa [sessionLinks] using linkCost_rdsig hc
  | some d =>
    have hmem : d ∈ s.cfg.desc := hcfg ▸ mem_desc_of_knownRow hrow
    rw [linkCost_session hc, efuse_of_family hc hmem]
    dsimp only
    cases latchedAction a with
    | readOnly => cases d.family <;> rfl
    | erase => cases d.family <;> rfl
    | writeDefaults => cases d.family <;> cases sessionErases (some d) .writeDefaults bR <;> rfl

end Sys2Proof.Machine
end

section
/-! What stops an operation or a step, and what is recorded without stopping one (60_exceptions.md R263 to R266): the
guards answer before anything runs, nothing clears the record of a read before a first write, and in IDLE with nothing
pending a step only waits. -/

namespace Sys2Proof.Machine

/-! ## The record of a read before a first write -/

/-- No primitive clears the record (60_exceptions.md R263). -/
theorem Primitive.keeps_recorded (p : Primitive) {s : State} (h : s.readUnwritten = true) :
    (p.run s).readUnwritten = true := by
  cases p with
  | put r v => exact (put_readUnwritten s r v).trans h
  | noteReads rs => exact noteReads_keeps h
  | _ => exact h

/-- No run clears the record (60_exceptions.md R263). -/
theorem recorded_of_run {s t : State} (h : Run s t) (hs : s.readUnwritten = true) : t.readUnwritten = true := by
  induction h with
  | refl => exact hs
  | tail _ hp ih =>
    obtain ⟨p, rfl⟩ := hp
    exact p.keeps_recorded ih

/-- The host reads only a published outcome, and the read is noted (10_state.md R37; log 29). -/
theorem hostReadOutcome_next {s t : State} {o : SessionOutcome} (h : hostReadOutcome s = .next (o, t)) :
    s.outcome.valid = true ∧ o = s.outcome ∧ t = noteReads outcomeFields s := by
  unfold hostReadOutcome at h
  split at h
  · cases h
    exact ⟨‹_›, rfl, rfl⟩
  · cases h

/-- Settles O58: an operation and a step are runs, and a read of the host only adds to the record. -/
theorem recordedFaultStays : Obligations.RecordedFaultStays := by
  intro s t hs h
  have ht : t.readUnwritten = true := by
    rcases h with ⟨i, hexec⟩ | hstep | hread
    · exact recorded_of_run (run_of_exec hexec) hs
    · exact recorded_of_run (run_of_step hstep) hs
    · obtain ⟨-, -, rfl⟩ := hostReadOutcome_next hread
      exact noteReads_keeps hs
  exact ⟨ht, fun ⟨_, _, hclear⟩ => Bool.false_ne_true (hclear.symm.trans ht)⟩

/-! ## The guards -/

/-- Every operation stands behind the guard on the configuration (60_exceptions.md R265). -/
theorem exec_of_badConfig (i : Instr) {s : State} (hc : configOk s.cfg = false) : exec i s = .refused .badConfig := by
  cases i <;> exact whenConfigured_bad hc _

/-- The engine's step stands behind the same guard (60_exceptions.md R265; log 17). -/
theorem step_of_badConfig {s : State} (hc : configOk s.cfg = false) : step s = .refused .badConfig :=
  whenConfigured_bad hc _

/-- Settles O3: the guard on the configuration answers first. -/
theorem badConfigRefusesEverything : Obligations.BadConfigRefusesEverything := fun _ hc =>
  ⟨step_of_badConfig hc, fun i => exec_of_badConfig i hc⟩

/-- Settles O6: the read asks for `valid` first. -/
theorem outcomeReadRefusedWhileNotValid : Obligations.OutcomeReadRefusedWhileNotValid := by
  intro s hv
  rw [hostReadOutcome, hv, if_neg Bool.false_ne_true]

/-- An operation that samples faults while the engine drives the data-out line (60_exceptions.md R264). -/
theorem whenConfigured_whenSampling_output {s : State} (hc : configOk s.cfg = true) (hd : s.sdoDir = .output)
    (r : Result) : whenConfigured s (whenSampling s r) = .fault .sampleWhileOutput :=
  (whenConfigured_ok hc _).trans (whenSampling_output hd r)

/-- Settles O27: each of these operations stands behind the guard on the direction. -/
theorem samplingWhileOutputFaults : Obligations.SamplingWhileOutputFaults := by
  intro s hc hd
  have hfault := whenConfigured_whenSampling_output hc hd
  exact ⟨hfault _, hfault _, hfault _, fun _ _ => hfault _, fun _ => hfault _, hfault _, hfault _, hfault _, hfault _,
    hfault _, fun _ => hfault _, fun _ => hfault _, fun _ => hfault _, hfault _⟩

/-! ## Waiting in IDLE -/

/-- In IDLE with no trigger and nothing issued the engine polls (60_exceptions.md R276; log 16). -/
theorem step_of_waiting {s : State} (hc : configOk s.cfg = true) (hp : s.pc.phase = .idle)
    (ht : s.host.trigger = false) (hi : s.issue = []) : step s = .next (idlePoll s) := by
  rw [step_of_idle hc hp, dropTrigger_of_none ht, ht, stepIdle, if_neg Bool.false_ne_true, hi]

/-- Settles O51: the poll lets a drawn time pass. -/
theorem idleWaitsForTrigger : Obligations.IdleWaitsForTrigger := fun s hc hp ht hi =>
  ⟨idlePoll s, step_of_waiting hc hp ht hi, (Primitive.elapse 0).now_le_run s, rfl⟩

end Sys2Proof.Machine
end

section
/-! Which configurations are refused (60_exceptions.md R265): each part of `configOk` fails exactly where the rule it
stands for is broken. -/

namespace Sys2Proof.Machine

section

variable {c : Config}

/-! ## The widths and the descriptors -/

theorem widthsOk_eq_true_iff : widthsOk c = true ↔
    c.widths.frameBits = 11 ∧ c.widths.dataBits = 8 ∧ c.widths.sigBits = 16 ∧ 0 < c.widths.padLead ∧
      0 < c.widths.padTrail ∧ c.widths.padLead + 8 + c.widths.padTrail = 11 := by
  simp only [widthsOk, Bool.and_eq_true, beq_iff_eq, bne_iff_ne, frameBits, dataBits, sigBits]
  omega

/-- Two places of `DESC` that give one signature (10_state.md R42). -/
theorem not_nodup_signatures_iff : ¬ (c.desc.map (·.signature)).Nodup ↔
    ∃ (j k : Nat) (d e : Descriptor), j ≠ k ∧ c.desc[j]? = some d ∧ c.desc[k]? = some e ∧
      d.signature = e.signature := by
  rw [List.nodup_iff_injective_getElem, Function.not_injective_iff]
  constructor
  · rintro ⟨⟨j, hj⟩, ⟨k, hk⟩, he, hne⟩
    rw [List.length_map] at hj hk
    exact ⟨j, k, _, _, fun h => hne (Fin.ext h), List.getElem?_eq_getElem hj, List.getElem?_eq_getElem hk,
      by simpa using he⟩
  · rintro ⟨j, k, d, e, hne, hj, hk, he⟩
    obtain ⟨hj', rfl⟩ := List.getElem?_eq_some_iff.1 hj
    obtain ⟨hk', rfl⟩ := List.getElem?_eq_some_iff.1 hk
    exact ⟨⟨j, by simpa using hj'⟩, ⟨k, by simpa using hk'⟩, by simpa using he, fun h => hne (Fin.val_eq_of_eq h)⟩

/-- A row disagrees with its family where it has an EFUSE default too many or too few (10_state.md R41). -/
theorem rowOk_eq_false_iff {d : Descriptor} : rowOk d = false ↔
    (d.family = .fam2 ∧ d.efuseDef ≠ none) ∨ (d.family = .fam3 ∧ d.efuseDef = none) := by
  unfold rowOk
  cases d.family <;> cases d.efuseDef <;> simp

theorem descOk_eq_false_iff : descOk c = false ↔
    (∃ (j k : Nat) (d e : Descriptor), j ≠ k ∧ c.desc[j]? = some d ∧ c.desc[k]? = some e ∧
      d.signature = e.signature) ∨
    ∃ d ∈ c.desc, (d.family = .fam2 ∧ d.efuseDef ≠ none) ∨ (d.family = .fam3 ∧ d.efuseDef = none) := by
  simp only [descOk, Bool.and_eq_false_iff, decide_eq_false_iff_not, not_nodup_signatures_iff, List.all_eq_false,
    Bool.not_eq_true, rowOk_eq_false_iff]

/-! ## The sequences of `CMD` -/

theorem fixedShape_eq_false_iff {n : Nat} {es : List CmdEntry} :
    fixedShape n es = false ↔ es.length ≠ n ∨ ∃ e ∈ es, e.sdi = .operand := by
  simp only [fixedShape, fixedEntry, Bool.and_eq_false_iff, beq_eq_false_iff_ne, List.all_eq_false, bne_iff_ne,
    not_ne_iff]

/-- Some place of a list is its first one, or a place of the rest. -/
theorem exists_getElem?_cons {α : Type} {x : α} {xs : List α} {P : Nat → α → Prop} :
    (∃ n e, (x :: xs)[n]? = some e ∧ P n e) ↔ P 0 x ∨ ∃ n e, xs[n]? = some e ∧ P (n + 1) e := by
  rw [← Nat.or_exists_add_one]
  simp

/-- The operand is in frame 2, counted from 0 the entry 1, and nowhere else (30_encoding.md R83, R88). -/
theorem operandShape_eq_false_iff {es : List CmdEntry} :
    operandShape es = false ↔
      es.length ≠ 4 ∨ ∃ (n : Nat) (e : CmdEntry), es[n]? = some e ∧ ¬ (e.sdi = .operand ↔ n = 1) := by
  by_cases h : es.length = 4
  · match es, h with
    | [e1, e2, e3, e4], _ =>
      simp only [operandShape, fixedEntry, exists_getElem?_cons, Bool.and_eq_false_iff, bne_eq_false_iff_eq,
        beq_eq_false_iff_ne, or_assoc]
      simp
  · have hshape : operandShape es = false := Bool.eq_false_iff.2 fun hs => h (Laws.length_of_operandShape hs)
    simp [hshape, h]

/-- The sequences by shape (30_encoding.md R86). -/
theorem cmdOk_eq_all : cmdOk c =
    ([c.cmd.rdL, c.cmd.rdH, c.cmd.rdE, c.cmd.rdLk, c.cmd.erase].all (fixedShape 3) &&
      [c.cmd.rdsb, c.cmd.wrL, c.cmd.wrH, c.cmd.wrE].all operandShape) := by
  simp only [cmdOk, List.all_cons, List.all_nil, Bool.and_true]
  ac_rfl

theorem cmdOk_eq_false_iff : cmdOk c = false ↔
    (∃ es ∈ [c.cmd.rdL, c.cmd.rdH, c.cmd.rdE, c.cmd.rdLk, c.cmd.erase], es.length ≠ 3 ∨ ∃ e ∈ es, e.sdi = .operand) ∨
    ∃ es ∈ [c.cmd.rdsb, c.cmd.wrL, c.cmd.wrH, c.cmd.wrE],
      es.length ≠ 4 ∨ ∃ (n : Nat) (e : CmdEntry), es[n]? = some e ∧ ¬ (e.sdi = .operand ↔ n = 1) := by
  rw [cmdOk_eq_all, Bool.and_eq_false_iff, List.all_eq_false, List.all_eq_false]
  simp only [Bool.not_eq_true, fixedShape_eq_false_iff, operandShape_eq_false_iff]

/-! ## The Fuse Addresses -/

theorem length_write_of_cmdOk (h : cmdOk c = true) (x : FuseSel) : (c.cmd.write x).length = 4 := by
  rw [cmdOk_eq_all, Bool.and_eq_true] at h
  have hshape := List.all_eq_true.1 h.2
  cases x <;> exact Laws.length_of_operandShape (hshape _ (by simp [CmdTable.write]))

/-- The frames after the second of a fuse write are its third and fourth (30_encoding.md R92; log 27). -/
theorem addrFramesOk_eq_false_iff {x : FuseSel} (h : (c.cmd.write x).length = 4) : addrFramesOk c x = false ↔
    ((c.cmd.write x).map (·.pair c.padData 0))[2]? ≠ some ⟨c.padData, (c.fuseAddr.get x).extractLsb' 8 8⟩ ∨
    ((c.cmd.write x).map (·.pair c.padData 0))[3]? ≠ some ⟨c.padData, (c.fuseAddr.get x).extractLsb' 0 8⟩ := by
  unfold addrFramesOk
  match c.cmd.write x, h with
  | [e1, e2, e3, e4], _ => simp [← not_and_or]

theorem fuseAddrOk_eq_false_iff (h : cmdOk c = true) : fuseAddrOk c = false ↔
    (¬ [c.fuseAddr.low, c.fuseAddr.high, c.fuseAddr.ext].Nodup) ∨
    ∃ x : FuseSel,
      ((c.cmd.write x).map (·.pair c.padData 0))[2]? ≠ some ⟨c.padData, (c.fuseAddr.get x).extractLsb' 8 8⟩ ∨
      ((c.cmd.write x).map (·.pair c.padData 0))[3]? ≠ some ⟨c.padData, (c.fuseAddr.get x).extractLsb' 0 8⟩ := by
  have hsel : (∃ x, addrFramesOk c x = false) ↔
      (addrFramesOk c .low = false ∨ addrFramesOk c .high = false) ∨ addrFramesOk c .ext = false := by
    constructor
    · rintro ⟨_ | _ | _, hx⟩ <;> simp [hx]
    · rintro ((hx | hx) | hx) <;> exact ⟨_, hx⟩
  simp only [← fun x => addrFramesOk_eq_false_iff (length_write_of_cmdOk h x), hsel]
  simp only [fuseAddrOk, Bool.and_eq_false_iff, decide_eq_false_iff_not, or_assoc]

end

/-! ## The whole configuration -/

/-- Settles O2: part by part; the frames of the Fuse Addresses are asked of a `CMD` whose shapes hold. -/
theorem badConfigConditions : Obligations.BadConfigConditions := by
  intro c
  have hparts : configOk c = false ↔ widthsOk c = false ∨ pinmapOk c = false ∨ descOk c = false ∨
      (cmdOk c = false ∨ fuseAddrOk c = false) ∨ c.timing.pollMin = 0 := by
    simp only [configOk, Bool.and_eq_false_iff, bne_eq_false_iff_eq, or_assoc]
  have hpins : pinmapOk c = false ↔
      ¬ [c.pinmap.rst, c.pinmap.vcc, c.pinmap.sci, c.pinmap.sii, c.pinmap.sdi, c.pinmap.sdo].Nodup :=
    decide_eq_false_iff_not
  have hcmd := or_congr_right' (a := cmdOk c = false) fun h => fuseAddrOk_eq_false_iff ((Bool.not_eq_false _).mp h)
  rw [hparts, hcmd, hpins, ← Bool.not_eq_true (widthsOk c), widthsOk_eq_true_iff, descOk_eq_false_iff,
    cmdOk_eq_false_iff]
  simp only [or_assoc]

end Sys2Proof.Machine
end

section
/-! The record of a read before a first write (70_reset_and_hazards.md R292, 60_exceptions.md R263; logs 8, 19, 29):
each reader notes its reads before it does anything else, and the rest of it leaves the record as it is. -/

namespace Sys2Proof.Machine

variable {s : State}

/-- A read of a register that nothing has written is recorded (70_reset_and_hazards.md R292). -/
theorem noteReads_records {rs : List Reg} {r : Reg} (hr : r ∈ rs) (hu : r ∈ s.unwritten) :
    (noteReads rs s).readUnwritten = true :=
  noteReads_recorded_iff.2 (.inr ⟨r, hr, hu⟩)

theorem sample_records (hc : configOk s.cfg = true) (hd : s.sdoDir = .input) (hu : Reg.acc ∈ s.unwritten) :
    ∃ t, exec .sample s = .next t ∧ t.readUnwritten = true :=
  ⟨_, whenConfigured_whenSampling_ok hc hd _,
    (linkStep_sampleIn _).readUnwritten.trans (noteReads_records (List.mem_singleton_self _) hu)⟩

/-- A POLL reads `wstart` only after a low sample (log 8). -/
theorem poll_records (hc : configOk s.cfg = true) (hd : s.sdoDir = .input) (hu : Reg.wstart ∈ s.unwritten)
    (hlow : s.sdoLevel = false) : ∃ t, exec .poll s = .next t ∧ t.readUnwritten = true :=
  ⟨_, whenConfigured_whenSampling_ok hc hd _,
    (linkStep_pollOnce (pollNoted s)).readUnwritten.trans (pollNoted_recorded_iff.2 (.inr ⟨hlow, hu⟩))⟩

/-- CLASSIFY without an operand reads `sig` (log 19). -/
theorem classify_records (hc : configOk s.cfg = true) (hu : Reg.sig ∈ s.unwritten) :
    ∃ t, exec (.classify none) s = .next t ∧ t.readUnwritten = true :=
  ⟨_, exec_classify_of_configOk none hc,
    (put_readUnwritten _ _ _).trans (noteReads_records (List.mem_singleton_self _) hu)⟩

/-- A SET reads every register that one of its expressions names (log 8). -/
theorem set_records (hc : configOk s.cfg = true) {as : List Assign} {a : Assign} {r : Reg} (ha : a ∈ as)
    (hr : r ∈ exprReads a.expr) (hu : r ∈ s.unwritten) :
    ∃ t, exec (.set as) s = .next t ∧ t.readUnwritten = true := by
  have hreads : r ∈ setReads as := List.mem_flatMap.2 ⟨a, ha, hr⟩
  refine ⟨_, exec_set_of_configOk as hc, ?_⟩
  rw [countOpen_readUnwritten, putAll_readUnwritten]
  exact noteReads_records hreads hu

/-- The host reads every field of the outcome (log 29), and its read changes nothing but the record. -/
theorem hostReadOutcome_records (hv : s.outcome.valid = true) {r : Reg} (hr : r ∈ outcomeFields)
    (hu : r ∈ s.unwritten) : hostReadOutcome s = .next (s.outcome, { s with readUnwritten := true }) := by
  have hnoted : noteReads outcomeFields s = { s with readUnwritten := (noteReads outcomeFields s).readUnwritten } := rfl
  rw [hostReadOutcome, if_pos hv, hnoted, noteReads_records hr hu]

/-- Settles O26: reader by reader. -/
theorem readOfUnwrittenRegisterIsRecorded : Obligations.ReadOfUnwrittenRegisterIsRecorded := fun _ hc =>
  ⟨sample_records hc, poll_records hc, classify_records hc, fun _ _ _ => set_records hc,
    fun hv _ => hostReadOutcome_records hv⟩

end Sys2Proof.Machine
end

section
/-! The high voltage and the data-out line during a session (70_reset_and_hazards.md R299, R300; 41_power.md R142).
Between ENTER and EXIT the lists of the phases touch only the lines of the link, so the supply and the 12 V stay as the
phase found them; the states inside ENTER are read off its list. -/

namespace Sys2Proof.Machine

/-! ## What the link leaves alone -/

/-- A micro-operation that drives no latch but the clock and the two data lines (40_link.md R113). -/
def drivesLinkOnly : Instr → Bool
  | .pin r _ => r = .sci || r = .sii || r = .sdi
  | _ => true

/-- Micro-operations of the link leave the 12 V and the supply alone. -/
theorem linesAfter_of_drivesLinkOnly {ops : List Instr} (h : ops.all drivesLinkOnly = true) (l : Lines) :
    (linesAfter l ops).rst = l.rst ∧ (linesAfter l ops).vcc = l.vcc := by
  induction ops generalizing l with
  | nil => exact ⟨rfl, rfl⟩
  | cons i ops ih =>
    obtain ⟨hi, hops⟩ := Bool.and_eq_true_iff.1 h
    cases i with
    | pin r b =>
      cases r with
      | sci | sii | sdi => exact ih hops _
      | rst | vcc | sdoOut => cases hi
    | _ => exact ih hops l

theorem expandPairs_drivesLinkOnly (w : Widths) (ps : List FramePair) :
    (expandPairs w ps).all drivesLinkOnly = true := by
  simp [expandPairs, expandXfer, expandWait, expandShift, setOne, drivesLinkOnly]

theorem expandRdlk_drivesLinkOnly (c : Config) : (expandRdlk c).all drivesLinkOnly = true := by
  rw [expandRdlk, List.all_append, expandPairs_drivesLinkOnly]
  rfl

theorem readFusesList_drivesLinkOnly (c : Config) (d : Descriptor) (l h e : Reg) :
    (readFusesList c d l h e).all drivesLinkOnly = true := by
  have hread (x : FuseSel) (r : Reg) : (readFuseList c x r).all drivesLinkOnly = true := by
    rw [readFuseList, List.all_append, expandPairs_drivesLinkOnly]
    rfl
  rw [readFusesList, List.all_append, List.all_append, hread, hread]
  split
  · exact hread .ext e
  · rfl

/-- Only ENTER and EXIT switch the supply and the 12 V (41_power.md R141, R144). -/
theorem phaseList_drivesLinkOnly {p : Phase} (henter : p ≠ .pEnter) (hexit : p ≠ .pExit) (c : Config) (d : Descriptor)
    (erased : Bool) : (phaseList p c d erased).all drivesLinkOnly = true := by
  cases p with
  | pEnter => exact absurd rfl henter
  | pExit => exact absurd rfl hexit
  | idle | pUnknown => rfl
  | pIdent =>
    simp only [phaseList, identList, expandRdsig, List.all_append, List.all_flatMap, expandPairs_drivesLinkOnly]
    simp [setOne, expandAccumulate, drivesLinkOnly]
  | pRead =>
    simp only [phaseList, readList, List.all_append, readFusesList_drivesLinkOnly, expandRdlk_drivesLinkOnly]
    rfl
  | pErase =>
    simp only [phaseList, eraseList, expandErase, List.all_append, expandPairs_drivesLinkOnly]
    rfl
  | pWrite =>
    cases hefuse : d.efuseDef <;>
      simp only [phaseList, writeList, hefuse, List.all_append, expandPairs_drivesLinkOnly] <;> rfl
  | pVerify =>
    cases erased <;>
      simp only [phaseList, verifyList, List.all_append, readFusesList_drivesLinkOnly, expandRdlk_drivesLinkOnly,
        if_true, Bool.false_eq_true, if_false] <;> rfl

/-! ## The lines inside a phase -/

/-- The 12 V is on only while the supply is; it is on while `rst` is 0 (70_reset_and_hazards.md R300). -/
abbrev SupplyFirst (l : Lines) : Prop := l.rst = false → l.vcc = true

/-- The three lines that ENTER holds low (41_power.md R141, R142). -/
abbrev DataLinesLow (l : Lines) : Prop := l.sdoOut = false ∧ l.sdi = false ∧ l.sii = false

/-- Wherever ENTER stands, the supply came before the 12 V and the data lines are low (41_power.md R141, R142). -/
theorem linesAfter_take_expandEnter : ∀ k ≤ expandEnter.length,
    SupplyFirst (linesAfter Lines.resting (expandEnter.take k)) ∧
      DataLinesLow (linesAfter Lines.resting (expandEnter.take k)) := by
  decide

theorem supplyFirst_entryLines (p : Phase) : SupplyFirst (entryLines p) := by
  cases p <;> decide

section

variable {s : State} (hl : LinesOk s)
include hl

theorem enterLines_of_linesOk (hpc : PcOk s) (hp : s.pc.phase = .pEnter) : SupplyFirst s.pins ∧ DataLinesLow s.pins := by
  obtain ⟨hupc, -, -⟩ := hpc
  obtain ⟨hpins, -⟩ := hl
  rw [doneOps, hp] at hpins
  rw [hp] at hupc
  rw [hpins]
  exact linesAfter_take_expandEnter s.pc.upc hupc

/-- Outside P_EXIT the 12 V is on only while the supply is (70_reset_and_hazards.md R300). -/
theorem supplyFirst_of_linesOk (hpc : PcOk s) (hexit : s.pc.phase ≠ .pExit) : SupplyFirst s.pins := by
  by_cases henter : s.pc.phase = .pEnter
  · exact (enterLines_of_linesOk hl hpc henter).1
  · have hlink : (doneOps s).all drivesLinkOnly = true := List.all_eq_true.2 fun i hi =>
      List.all_eq_true.1 (phaseList_drivesLinkOnly henter hexit _ _ _) i (List.mem_of_mem_take hi)
    obtain ⟨hrst, hvcc⟩ := linesAfter_of_drivesLinkOnly hlink (entryLines s.pc.phase)
    rw [SupplyFirst, hl.1, hrst, hvcc]
    exact supplyFirst_entryLines s.pc.phase

/-- The engine drives the data-out line only inside P_ENTER (70_reset_and_hazards.md R299). -/
theorem phase_of_output (hout : s.sdoDir = .output) : s.pc.phase = .pEnter := by
  by_contra hne
  have hkeeps : (doneOps s).all keepsDir = true := List.all_eq_true.2 fun i hi =>
    List.all_eq_true.1 (phaseList_keepsDir hne _ _ _) i (List.mem_of_mem_take hi)
  have hinput : s.sdoDir = .input := hl.2.trans (dirAfter_of_keepsDir hkeeps .input)
  cases hinput.symm.trans hout

theorem pins_of_idle (hp : s.pc.phase = .idle) : s.pins = Lines.resting := by
  obtain ⟨hpins, -⟩ := hl
  rwa [doneOps_of_idle hp, hp] at hpins

end

/-- Settles O55: the lines are what the completed micro-operations of the phase made of them. -/
theorem highVoltageOnlyWithSupply : Obligations.HighVoltageOnlyWithSupply := by
  intro s h
  obtain ⟨-, -, hpc, hl, -⟩ := h
  refine ⟨supplyFirst_of_linesOk hl hpc, fun hout => ?_, fun hidle => ?_⟩
  · have henter := phase_of_output hl hout
    exact ⟨henter, (enterLines_of_linesOk hl hpc henter).2⟩
  · rw [pins_of_idle hl hidle]
    exact ⟨rfl, rfl⟩

end Sys2Proof.Machine
end
